-- ==== Sys2Proof/Word.lean ====
section
/-! DEFINITION. The two widths of the protocol: a byte and a 16-bit device address (spec 00_scope.md R8). -/

namespace Sys2Proof

/-- A byte: the unit of the channel, of the payload buffer and of the registers `opc`, `op0`, `cnt`, `err_exp`,
`err_act` (R8, R11). -/
abbrev Byte := BitVec 8

/-- A device address: 16 bits, carried and never computed with (R8, R27). -/
abbrev Addr := BitVec 16

end Sys2Proof
end

