-- ==== Sys2Proof/Config.lean ====
section
/-! DEFINITION. What the spec fixes as parameters, and the values it leaves free (opaque constants without a body). -/

namespace Sys2Proof.Config

/-- `FRAME_LEN` (R8): a command frame is 4 bytes. -/
abbrev frameLen : Nat := 4

/-- `HANDSHAKE_LEN` (R8): a handshake read asks for 1 byte. -/
abbrev handshakeLen : Nat := 1

/-- `MAX_PAYLOAD` (R8): a payload has at most 255 bytes. -/
abbrev maxPayload : Nat := 255

/-- `BUF_DEPTH` (R9): the payload buffer has 255 entries. -/
abbrev bufDepth : Nat := 255

/-- `T_READ_TIMEOUT` (R9, D23): the transport's read-timeout, an open parameter that no rule reads. It serves only to
state the blocking bound of R230. Assumption log 19. -/
opaque tReadTimeout : Nat

/-- The oracle's free accepted count of a `ChanWrite` that no scripted answer covers, before it is limited to the domain
of R60: a free value of draw `n`. Assumption log 3. -/
opaque freeAccepted (n : Nat) : Nat

/-- The oracle's free error flag of a transaction that no scripted answer covers. Assumption log 3. -/
opaque freeFlag (n : Nat) : Bool

/-- The oracle's free bytes of a `ChanRead` that no scripted answer covers, before they are limited to the domain of R60.
Assumption log 3. -/
opaque freeBytes (n : Nat) : List Byte

/-- The unspecified value that draw `n` gives the register `hop` at a reset event (R40, R210, U10). Assumption log 7. -/
opaque freeHop (n : Nat) : BitVec 2

/-- The unspecified value of `opc` after a reset event (R40, R210, U10). Assumption log 7. -/
opaque freeOpc (n : Nat) : Byte

/-- The unspecified value of `addr` after a reset event (R40, R210, U10). Assumption log 7. -/
opaque freeAddr (n : Nat) : Addr

/-- The unspecified value of `op0` after a reset event (R40, R210, U10). Assumption log 7. -/
opaque freeOp0 (n : Nat) : Byte

/-- The unspecified value of `cnt` after a reset event (R40, R210, U10). Assumption log 7. -/
opaque freeCnt (n : Nat) : Byte

/-- The unspecified value of `err_exp` after a reset event (R40, R210, U10). Assumption log 7. -/
opaque freeErrExp (n : Nat) : Byte

/-- The unspecified value of `err_act` after a reset event (R40, R210, U10). Assumption log 7. -/
opaque freeErrAct (n : Nat) : Byte

/-- The unspecified value of `buf[i]` after a reset event (R40, R210, U10). Assumption log 7. -/
opaque freeBuf (n i : Nat) : Byte

end Sys2Proof.Config
end

