-- ==== Sys2Proof/Syntax.lean ====
section
/-! DEFINITION. The instructions, one constructor for each row of spec/opcode_table.json, and the three formats that encode
them: the command frame, the handshake byte and the host's input signals (30_encoding.md R80). -/

namespace Sys2Proof

/-- The nine rows of the opcode table. A `CMD` row carries the frame's two operand fields (R81); an `HS` row has no field
(R83); a `HOP` row carries the operands that travel beside the selector (R84), in the call syntax of R95. -/
inductive Instr where
  /-- `SUCCESS`: command frame with opcode 0 (R101). -/
  | success (address : Addr) (operand0 : Byte)
  /-- `WRITE`: command frame with opcode 1 (R102). -/
  | write (address : Addr) (operand0 : Byte)
  /-- `WRITE_PAGE`: command frame with opcode 2 (R103). -/
  | writePage (address : Addr) (operand0 : Byte)
  /-- `READ`: command frame with opcode 3 (R104). -/
  | read (address : Addr) (operand0 : Byte)
  /-- `ACK`: the handshake byte 199 (R116). -/
  | ack
  /-- `SUCCESS_HS`: the handshake byte 0 (R117). -/
  | successHs
  /-- `SEND_COMMAND`: `SendCommand(opcode, address, operand0)` (R130). -/
  | sendCommand (opcode : Byte) (address : Addr) (operand0 : Byte)
  /-- `WRITE_PAGE_OP`: `WritePage(address, payload)` (R131). -/
  | writePageOp (address : Addr) (payload : List Byte)
  /-- `READ_DATA_OP`: `ReadData(address, length)` (R132). -/
  | readDataOp (address : Addr) (length : Byte)
  deriving DecidableEq, Repr

/-- A command: the triple a frame packs ("a value, not a stored entity", glossary of 00_scope.md; R94). -/
structure Command where
  opcode : Byte
  address : Addr
  operand0 : Byte
  deriving DecidableEq, Repr

/-- The host's input signals in one step (R37), with the reset event (R210). `viaFrame` is the model's own: it says by
which row of the opcode table the model names a `Start`, by its frame (`CMD`) or by its selector (`HOP`); it is no signal
of the block. Assumption log 1, 2. -/
structure HostPort where
  /-- The reset event (R210). -/
  rst : Bool
  /-- `h_start`: requests `Start`. -/
  start : Bool
  /-- `h_ret`: requests `Return`. -/
  ret : Bool
  /-- `h_op[1:0]`: the operation selector. -/
  op : BitVec 2
  /-- `h_opcode[7:0]`: the command opcode, used only by `SendCommand`. -/
  opcode : Byte
  /-- `h_addr[15:0]`: the address. -/
  addr : Addr
  /-- `h_op0[7:0]`: the operand, or the length. -/
  op0 : Byte
  /-- `h_payload`: the payload, used only by `WritePage`. -/
  payload : List Byte
  /-- The naming flag. -/
  viaFrame : Bool
  deriving DecidableEq, Repr

/-- Nothing presented: no event, every signal 0. -/
def HostPort.quiet : HostPort where
  rst := false
  start := false
  ret := false
  op := 0
  opcode := 0
  addr := 0
  op0 := 0
  payload := []
  viaFrame := false

/-- An encoded instruction, by format (R80): the bytes of a command frame in channel order, the handshake byte received,
or the host's signals with the selector and its operands. -/
inductive Encoded where
  | frame (bytes : List Byte)
  | handshake (bytes : List Byte)
  | host (port : HostPort)
  deriving DecidableEq, Repr

/-- Why an encoding stands for no instruction of the table. -/
inductive DecodeError where
  /-- A command frame that is not 4 bytes long (R80, R93). -/
  | frameLength (n : Nat)
  /-- Byte0 of the frame is none of the four opcodes (R90). -/
  | reservedOpcode (opcode : Byte)
  /-- A handshake that is not 1 byte long (R80). -/
  | handshakeLength (n : Nat)
  /-- A byte that is neither marker (R91). -/
  | unknownMarker (byte : Byte)
  /-- `h_op = 3` selects nothing (R92). -/
  | reservedSelector
  /-- `h_payload` does not have exactly `h_op0` bytes (R37). -/
  | payloadLength
  deriving DecidableEq, Repr

end Sys2Proof
end

