-- ==== Sys2Proof/WellFormed.lean ====
section
/-! DEFINITION. Which instructions and which host signals can be presented at all. The operand fields are as wide as their
registers and every value of them is accepted (R100, R53); a payload must fit the one-byte length (R109). -/

namespace Sys2Proof

/-- The check of R109 and R220: a payload has at most 255 bytes. No other field has a value that cannot be presented. -/
def Instr.wellFormed : Instr → Bool
  | .success _ _ => true
  | .write _ _ => true
  | .writePage _ _ => true
  | .read _ _ => true
  | .ack => true
  | .successHs => true
  | .sendCommand _ _ _ => true
  | .writePageOp _ payload => decide (payload.length ≤ Config.maxPayload)
  | .readDataOp _ _ => true

/-- `i` can be presented to the block. -/
abbrev Instr.WellFormed (i : Instr) : Prop := i.wellFormed = true

/-- `h_payload` is a byte sequence of exactly `h_op0` bytes where it is used (R37). -/
def HostPort.payloadFits (p : HostPort) : Bool := decide (p.payload.length = p.op0.toNat)

/-- The signals select an operation (R92) and, for `WritePage`, present a payload of the announced length (R37). -/
def HostPort.wellFormed (p : HostPort) : Bool :=
  decide (p.op ≠ 3#2) && (decide (p.op ≠ 1#2) || p.payloadFits)

/-- The signals are those of a call the host can make. -/
abbrev HostPort.WellFormed (p : HostPort) : Prop := p.wellFormed = true

end Sys2Proof
end

