-- ==== Sys2Proof/Decode.lean ====
section
/-! DEFINITION. The encodings of 30_encoding.md and 40_frame_encoder.md: the numbers of the opcode map, the frame encoder
and decoder, and the decoder and encoder of the nine rows. -/

namespace Sys2Proof

/-! ## The opcode map -/

/-- Opcode `SUCCESS` = 0 (R88). Assumption log 20. -/
def opSuccess : Byte := 0#8

/-- Opcode `WRITE` = 1 (R88). -/
def opWrite : Byte := 1#8

/-- Opcode `WRITE_PAGE` = 2 (R88). -/
def opWritePage : Byte := 2#8

/-- Opcode `READ` = 3 (R88). -/
def opRead : Byte := 3#8

/-- `ACK_VALUE` = 199 (R8, R89). -/
def ackValue : Byte := 199#8

/-- `SUCCESS_VALUE` = 0 (R8, R89). -/
def successValue : Byte := 0#8

/-- Selector of `SendCommand` (R84). -/
def hopSendCommand : BitVec 2 := 0#2

/-- Selector of `WritePage` (R84). -/
def hopWritePage : BitVec 2 := 1#2

/-- Selector of `ReadData` (R84). -/
def hopReadData : BitVec 2 := 2#2

/-! ## The frame -/

/-- Byte1 of a frame: `addr[15:8]` (R81, R85). -/
def addrHigh (a : Addr) : Byte := a.extractLsb' 8 8

/-- Byte2 of a frame: `addr[7:0]` (R81, R85). -/
def addrLow (a : Addr) : Byte := a.extractLsb' 0 8

/-- `{byte1, byte2}` (R85, R94). -/
def joinAddr (high low : Byte) : Addr := high ++ low

/-- `encode(opcode, address, operand0)` (R100): opcode, address high byte first, operand. -/
def encodeFrame (opcode : Byte) (address : Addr) (operand0 : Byte) : List Byte :=
  [opcode, addrHigh address, addrLow address, operand0]

/-- The frame as one 32-bit word `{opc, addr, op0}` (R82). -/
def frameWord (opcode : Byte) (address : Addr) (operand0 : Byte) : BitVec 32 :=
  opcode ++ address ++ operand0

/-- The bytes of a frame word in channel order, most significant byte first (R82). -/
def frameBytes (w : BitVec 32) : List Byte :=
  [w.extractLsb' 24 8, w.extractLsb' 16 8, w.extractLsb' 8 8, w.extractLsb' 0 8]

/-- The frame decoder (R94): total on every 4-byte sequence. -/
def decodeFrame : List Byte → Option Command
  | [b0, b1, b2, b3] => some { opcode := b0, address := joinAddr b1 b2, operand0 := b3 }
  | _ => none

/-- The opcode an operation's frame carries (R26, R87): the host's for `SendCommand`, 2 for `WritePage`, 3 for
`ReadData`. -/
def latchedOpcode (op : BitVec 2) (hostOpcode : Byte) : Byte :=
  if op = hopWritePage then opWritePage else if op = hopReadData then opRead else hostOpcode

/-! ## Decoding the nine rows -/

/-- A command frame as a row of the table (R88); opcodes 4 to 255 name no command (R90). -/
def decodeCmd (bytes : List Byte) : Except DecodeError Instr :=
  match decodeFrame bytes with
  | none => .error (.frameLength bytes.length)
  | some c =>
    if c.opcode = opSuccess then .ok (.success c.address c.operand0)
    else if c.opcode = opWrite then .ok (.write c.address c.operand0)
    else if c.opcode = opWritePage then .ok (.writePage c.address c.operand0)
    else if c.opcode = opRead then .ok (.read c.address c.operand0)
    else .error (.reservedOpcode c.opcode)

/-- A received handshake as a row of the table (R89): one byte, compared as a whole (R83). -/
def decodeHs : List Byte → Except DecodeError Instr
  | [b] =>
    if b = ackValue then .ok .ack
    else if b = successValue then .ok .successHs
    else .error (.unknownMarker b)
  | bytes => .error (.handshakeLength bytes.length)

/-- The host's signals as a row of the table (R84): the selector chooses, the operands travel beside it (R37); 3 is
reserved (R92). -/
def decodeHop (p : HostPort) : Except DecodeError Instr :=
  if p.op = hopSendCommand then .ok (.sendCommand p.opcode p.addr p.op0)
  else if p.op = hopWritePage then
    if p.payloadFits then .ok (.writePageOp p.addr p.payload) else .error .payloadLength
  else if p.op = hopReadData then .ok (.readDataOp p.addr p.op0)
  else .error .reservedSelector

/-- Decoding, total on any encoding of any format, rejecting by name. -/
def decode : Encoded → Except DecodeError Instr
  | .frame bytes => decodeCmd bytes
  | .handshake bytes => decodeHs bytes
  | .host p => decodeHop p

/-! ## Encoding the nine rows -/

/-- The signals of a `Start` with a selector and its operands; the signals the operation ignores are 0 (R37). -/
def startPort (op : BitVec 2) (opcode : Byte) (address : Addr) (op0 : Byte) (payload : List Byte) : HostPort :=
  { HostPort.quiet with start := true, op := op, opcode := opcode, addr := address, op0 := op0, payload := payload }

/-- The operand of a `WritePage` frame, `len(payload)` (R28, R87); a payload above 255 bytes has none, it is not taken
modulo 256 (R109, U1). -/
def payloadOperand (payload : List Byte) : Option Byte :=
  if payload.length ≤ Config.maxPayload then some (BitVec.ofNat 8 payload.length) else none

/-- The encoding of an instruction (R81, R83, R84, R87); none for a payload that cannot be presented (R109). -/
def encode : Instr → Option Encoded
  | .success a p => some (.frame (encodeFrame opSuccess a p))
  | .write a p => some (.frame (encodeFrame opWrite a p))
  | .writePage a p => some (.frame (encodeFrame opWritePage a p))
  | .read a p => some (.frame (encodeFrame opRead a p))
  | .ack => some (.handshake [ackValue])
  | .successHs => some (.handshake [successValue])
  | .sendCommand o a p => some (.host (startPort hopSendCommand o a p []))
  | .writePageOp a payload =>
    match payloadOperand payload with
    | some n => some (.host (startPort hopWritePage 0 a n payload))
    | none => none
  | .readDataOp a n => some (.host (startPort hopReadData 0 a n []))

/-! ## Naming a `Start` by its frame

A `Start` presents a selector and emits a frame; both are rows of the table, with the same exchange (R88 "emitted by",
R101 to R104). `viaFrame` says which row names the step. Assumption log 2. -/

/-- The frame a `Start` with these signals emits (R87). -/
def frameOf (p : HostPort) : List Byte := encodeFrame (latchedOpcode p.op p.opcode) p.addr p.op0

/-- The selector whose exchange a command frame begins: `SendCommand` for opcodes 0 and 1 (R101, R102), `WritePage` for 2
(R103), `ReadData` for 3 (R104). -/
def Instr.exchange : Instr → Option (BitVec 2)
  | .success _ _ => some hopSendCommand
  | .write _ _ => some hopSendCommand
  | .writePage _ _ => some hopWritePage
  | .read _ _ => some hopReadData
  | .ack => none
  | .successHs => none
  | .sendCommand _ _ _ => none
  | .writePageOp _ _ => none
  | .readDataOp _ _ => none

/-- The instruction that the host's signals present: by selector, or by the frame where the frame's row stands for the
selected operation. -/
def decodePort (p : HostPort) : Except DecodeError Instr :=
  if p.viaFrame then
    match decodeCmd (frameOf p) with
    | .ok i => if i.exchange = some p.op then .ok i else decodeHop p
    | .error _ => decodeHop p
  else decodeHop p

/-! ## The host's table words (assumption log 15) -/

/-- The bytes of a table word of the format `CMD` (R82). -/
def tableFrame (w : Nat) : List Byte := frameBytes (BitVec.ofNat 32 w)

/-- Whether a table word of 8 bits is a handshake byte: every byte but 1 and 2, which are no marker and are read as the
selectors of `WritePage` and `ReadData` padded to a byte. -/
def tableIsHandshake (w : Nat) : Bool := decide (w ≠ 1 ∧ w ≠ 2)

/-- The signals of a selector whose operands are all zero. -/
def tablePort (w : Nat) : HostPort := startPort (BitVec.ofNat 2 w) 0 0 0 []

/-- The encoding that a table word of `nbits` bits stands for: 32 bits a frame, 8 bits a handshake byte (or a padded
selector), 2 bits a selector. -/
def tableEncoding (nbits w : Nat) : Option Encoded :=
  if nbits = 32 then some (.frame (tableFrame w))
  else if nbits = 8 then
    if tableIsHandshake w then some (.handshake [BitVec.ofNat 8 w]) else some (.host (tablePort w))
  else if nbits = 2 then some (.host (tablePort w))
  else none

/-- The instruction the decoder reads from a table word. -/
def decodeTableWord (nbits w : Nat) : Option Instr :=
  match tableEncoding nbits w with
  | none => none
  | some e =>
    match decode e with
    | .ok i => some i
    | .error _ => none

end Sys2Proof
end

