-- ==== Sys2Proof/Machine/State.lean ====
section
/-! DEFINITION. The state of the block (10_state.md R20 to R33), the model's own fields beside it (the history of R69, the
host's signals, the channel's answers), and the reasons a step can stop. -/

namespace Sys2Proof.Machine

open Sys2Proof

/-- The eight states of the FSM register `st` (R22, R23). -/
inductive St where
  | idle
  | frameSent
  | ackAwaited
  | ackReceived
  | payloadTransferred
  | completionAwaited
  | done
  | failed
  deriving DecidableEq, Repr

/-- The five values of the error kind register `err` (R32, U13). -/
inductive ErrKind where
  | noError
  | transport
  | readTimeout
  | handshake
  | shortWrite
  deriving DecidableEq, Repr

/-- An error with what it carries, the argument of `raise` (R14, R180). -/
inductive Error where
  /-- `TransportError` (R181). -/
  | transport
  /-- `ReadTimeoutError` (R182). -/
  | readTimeout
  /-- `HandshakeError(expected, actual)` (R183). -/
  | handshake (expected actual : Byte)
  /-- `ShortWriteError` (R184). -/
  | shortWrite
  deriving DecidableEq, Repr

/-- The answer to a `ChanWrite`: the number of bytes accepted and the error flag (R110). -/
structure WriteAnswer where
  count : Nat
  error : Bool
  deriving DecidableEq, Repr

/-- The answer to a `ChanRead`: the bytes delivered and the error flag (R111). -/
structure ReadAnswer where
  bytes : List Byte
  error : Bool
  deriving DecidableEq, Repr

/-- One transaction, request and answer together (R69). -/
inductive Transaction where
  /-- `ChanWrite(data)` with its answer. -/
  | write (data : List Byte) (answer : WriteAnswer)
  /-- `ChanRead(k)` with its answer. -/
  | read (k : Nat) (answer : ReadAnswer)
  deriving DecidableEq, Repr

/-- The payload buffer as sparse data: (index, byte) pairs, indices strictly rising, no entry equal to what an unlisted
index reads as. Assumption log 10. -/
abbrev Memory := List Host.Cell

/-- What an index of the buffer that nothing has written reads as (DESIGN CHOICE, assumption log 6, 10: R40 gives no
reset value). -/
def unlisted : Byte := 0#8

/-- The whole state. -/
structure State where
  /-- `st`, the FSM state register (R22). -/
  st : St
  /-- `hop`, the host operation register, 2 bits (R25). -/
  hop : BitVec 2
  /-- `opc`, the command opcode register (R26). -/
  opc : Byte
  /-- `addr`, the address register (R27). -/
  addr : Addr
  /-- `op0`, the operand register, the length of a payload phase (R28). -/
  op0 : Byte
  /-- `cnt`, the payload byte counter (R24). -/
  cnt : Byte
  /-- `buf[0..254]`, the payload buffer (R30). -/
  buf : Memory
  /-- `err`, the error kind register (R32). -/
  err : ErrKind
  /-- `err_exp`, the expected handshake byte (R33). -/
  errExp : Byte
  /-- `err_act`, the actual handshake byte (R33). -/
  errAct : Byte
  /-- The model's record of every transaction, oldest first (R69). -/
  history : List Transaction
  /-- The host's signals in the present step (R37). Assumption log 1. -/
  port : HostPort
  /-- What the host presents in the following steps, one entry a step. Assumption log 1. -/
  script : List HostPort
  /-- The channel's answers to the `ChanWrite`s to come (R60). Assumption log 3. -/
  writeAnswers : List WriteAnswer
  /-- The channel's answers to the `ChanRead`s to come (R60). Assumption log 3. -/
  readAnswers : List ReadAnswer
  /-- How many free values have been drawn. Assumption log 3. -/
  freeCount : Nat
  deriving DecidableEq, Repr

/-- Why the machine stops with a fault. -/
inductive Fault where
  /-- Raised by the payload phase when no guard of R156 to R159 holds: `st = AckReceived` with `hop = 3`, or with
  `hop = 2` and `cnt > op0`. SAFE: no reachable state is one (R41, R165), and the model stops where the spec has no step.
  Assumption log 11. -/
  | noControllerStep
  deriving DecidableEq, Repr

/-- Why an input has no meaning. -/
inductive Refusal where
  /-- An instruction that has no meaning yet, by its mnemonic. Raised by no arm of this model. SAFE. -/
  | notModelled (mnemonic : String)
  /-- The scripted answer to a transaction is outside the domain of R60 ("the model admits no step for it"). Raised by
  every transaction. SAFE: a real transport cannot give it. Assumption log 4. -/
  | answerOutsideDomain
  /-- `h_payload` does not have exactly `h_op0` bytes (R37): the call cannot be presented. Raised by `WritePage`. SAFE: no
  claim is made of it. Assumption log 9. -/
  | payloadLengthMismatch
  /-- A payload of more than 255 bytes (R109, U1): refused, never truncated. Raised by `WritePage`. SAFE. Assumption
  log 9. -/
  | payloadTooLong
  deriving DecidableEq, Repr

/-- The machine after reset (R40, R210): `st = Idle`, `err = None`. The registers that R40 leaves unspecified hold 0
(DESIGN CHOICE, assumption log 6); nothing is presented, answered or recorded. -/
def State.reset : State where
  st := .idle
  hop := 0
  opc := 0
  addr := 0
  op0 := 0
  cnt := 0
  buf := []
  err := .noError
  errExp := 0
  errAct := 0
  history := []
  port := HostPort.quiet
  script := []
  writeAnswers := []
  readAnswers := []
  freeCount := 0

end Sys2Proof.Machine
end

