-- ==== Sys2Proof/Machine/Ops.lean ====
section
/-! DEFINITION. The operations every meaning is written over: the payload buffer, the two channel transactions, `raise`
and `Return`, the latching of a command, `WriteAll`, and the comparison of a handshake byte. -/

namespace Sys2Proof.Machine

open Sys2Proof

/-! ## The payload buffer (R30, R39) -/

/-- `buf[i]` (R12). -/
def Memory.read : Memory → Nat → Byte
  | [], _ => unlisted
  | (j, c) :: m, i => if i = j then c else Memory.read m i

/-- `buf[i] <- v` (R12), keeping the canonical form. -/
def Memory.write : Memory → Nat → Byte → Memory
  | [], i, v => if v = unlisted then [] else [(i, v)]
  | (j, c) :: m, i, v =>
    if i < j then if v = unlisted then (j, c) :: m else (i, v) :: (j, c) :: m
    else if i = j then if v = unlisted then m else (i, v) :: m
    else (j, c) :: Memory.write m i v

/-- `buf[start + k] <- bytes[k]` for every index of `bytes`, in ascending order (R51). -/
def Memory.writeRange : Memory → Nat → List Byte → Memory
  | m, _, [] => m
  | m, start, b :: bytes => Memory.writeRange (m.write start b) (start + 1) bytes

/-- The sequence `buf[start..start+n-1]` (R11). -/
def Memory.readRange (m : Memory) (start : Nat) : Nat → List Byte
  | 0 => []
  | n + 1 => m.read start :: m.readRange (start + 1) n

/-- The buffer whose entry `i` holds `f i`, for every index below `n` (used for an unspecified content). -/
def Memory.ofFn (f : Nat → Byte) (n : Nat) : Memory :=
  (List.range n).filterMap fun i => if f i = unlisted then none else some (i, f i)

/-- The canonical form: indices strictly rising and inside the buffer, no entry an unlisted index reads as. -/
def Memory.wf (m : Memory) : Bool :=
  decide (m.Pairwise fun a b => a.1 < b.1) && m.all fun c => decide (c.1 < Config.bufDepth) && decide (c.2 ≠ unlisted)

/-! ## The sequencing register and the errors -/

/-- `st <- S`, nothing else. -/
def State.enter (s : State) (target : St) : State := { s with st := target }

/-- The kind an error leaves in `err` (R180). -/
def Error.kind : Error → ErrKind
  | .transport => .transport
  | .readTimeout => .readTimeout
  | .handshake _ _ => .handshake
  | .shortWrite => .shortWrite

/-- `raise E(info)` (R190), the block's trap entry: `err` by the kind, `err_exp` and `err_act` by a `HandshakeError` only,
`st <- Failed`, nothing else and no transaction. -/
def State.raise (s : State) (e : Error) : State :=
  { s with
    err := e.kind
    errExp := match e with | .handshake expected _ => expected | _ => s.errExp
    errAct := match e with | .handshake _ actual => actual | _ => s.errAct
    st := .failed }

/-- `Return` (R167), the block's trap return: from `Done` or `Failed` to `Idle`, nothing else; refused elsewhere. -/
def State.hostReturn (s : State) : State :=
  match s.st with
  | .done => s.enter .idle
  | .failed => s.enter .idle
  | _ => s

/-- The reset event (R210): `st <- Idle`, `err <- None`, every other register takes an unspecified value (R40), no
transaction. Assumption log 7. -/
def State.resetEvent (s : State) : State :=
  { s with
    st := .idle
    err := .noError
    hop := Config.freeHop s.freeCount
    opc := Config.freeOpc s.freeCount
    addr := Config.freeAddr s.freeCount
    op0 := Config.freeOp0 s.freeCount
    cnt := Config.freeCnt s.freeCount
    buf := Memory.ofFn (Config.freeBuf s.freeCount) Config.bufDepth
    errExp := Config.freeErrExp s.freeCount
    errAct := Config.freeErrAct s.freeCount
    freeCount := s.freeCount + 1 }

/-! ## The channel (R59, R60, R110, R111) -/

/-- The channel's answer to a `ChanWrite` of `k` bytes: the next scripted one, or a free value of the domain of R60;
`none` where the scripted one is outside the domain. Assumption log 3, 4. -/
def State.writeAnswer (s : State) (k : Nat) : Option WriteAnswer :=
  match s.writeAnswers with
  | [] => some { count := min (Config.freeAccepted s.freeCount) k, error := Config.freeFlag s.freeCount }
  | a :: _ => if a.count ≤ k then some a else none

/-- The channel's answer to `ChanRead(k)`, as `writeAnswer`. -/
def State.readAnswer (s : State) (k : Nat) : Option ReadAnswer :=
  match s.readAnswers with
  | [] => some { bytes := (Config.freeBytes s.freeCount).take k, error := Config.freeFlag s.freeCount }
  | a :: _ => if a.bytes.length ≤ k then some a else none

/-- The channel after it has answered a `ChanWrite`. -/
def State.afterWrite (s : State) : State :=
  match s.writeAnswers with
  | [] => { s with freeCount := s.freeCount + 1 }
  | _ :: rest => { s with writeAnswers := rest }

/-- The channel after it has answered a `ChanRead`: the bytes are consumed (R59). -/
def State.afterRead (s : State) : State :=
  match s.readAnswers with
  | [] => { s with freeCount := s.freeCount + 1 }
  | _ :: rest => { s with readAnswers := rest }

/-- The history with one more transaction (R69). -/
def State.record (s : State) (t : Transaction) : State := { s with history := s.history ++ [t] }

/-- `ChanWrite(data) -> (n, e)` (R110), with the state after it. -/
def State.chanWrite (s : State) (data : List Byte) : Option (WriteAnswer × State) :=
  match s.writeAnswer data.length with
  | none => none
  | some a => some (a, s.afterWrite.record (.write data a))

/-- `ChanRead(k) -> (bs, e)` (R111), with the state after it. -/
def State.chanRead (s : State) (k : Nat) : Option (ReadAnswer × State) :=
  match s.readAnswer k with
  | none => none
  | some a => some (a, s.afterRead.record (.read k a))

/-- How `WriteAll` ends on an answer (R118, R188): the error flag first (R112), then the count, else `st` becomes
`target`. -/
def State.afterWriteAll (s : State) (a : WriteAnswer) (k : Nat) (target : St) : State :=
  if a.error then s.raise .transport
  else if a.count < k then s.raise .shortWrite
  else s.enter target

/-- `WriteAll(data)` and the state `target` it leads to (R118). -/
def State.writeAll (s : State) (data : List Byte) (target : St) : Host.Outcome State Fault Refusal :=
  match s.chanWrite data with
  | none => .refused .answerOutsideDomain
  | some (a, t) => .next (t.afterWriteAll a data.length target)

/-! ## The handshake byte (R114) -/

/-- The comparison of `WaitByte(expected)` on the byte read: `st` becomes `target`, or `HandshakeError(expected, actual)`. -/
def State.compareByte (s : State) (expected actual : Byte) (target : St) : State :=
  if actual = expected then s.enter target else s.raise (.handshake expected actual)

/-- What a handshake byte does when it arrives (R153, R154, R161, R162). A byte that no read asked for is no event to the
block (R187). Assumption log 13. -/
def State.receiveByte (s : State) (b : Byte) : State :=
  match s.st with
  | .ackAwaited => s.compareByte ackValue b .ackReceived
  | .completionAwaited => s.compareByte successValue b .done
  | _ => s

/-! ## Starting an operation (R151) -/

/-- Part (1) of `Start`: the command registers are latched, `cnt` and `err` cleared. -/
def State.latch (s : State) (hop : BitVec 2) (opcode : Byte) (address : Addr) (op0 : Byte) : State :=
  { s with
    hop := hop
    opc := latchedOpcode hop opcode
    addr := address
    op0 := op0
    cnt := 0
    err := .noError }

/-- Part (1) of `Start`, for `WritePage`: `buf[i] <- h_payload[i]`. -/
def State.latchPayload (s : State) (payload : List Byte) : State := { s with buf := s.buf.writeRange 0 payload }

/-- The frame of the latched command (R70, R100). -/
def State.frame (s : State) : List Byte := encodeFrame s.opc s.addr s.op0

/-- `Start` (R151): in `Idle`, latch, then encode and send the frame in one write of 4 bytes; refused elsewhere, with no
change. `payload` is empty but for `WritePage`. -/
def State.startOperation (s : State) (hop : BitVec 2) (opcode : Byte) (address : Addr) (op0 : Byte)
    (payload : List Byte) : Host.Outcome State Fault Refusal :=
  match s.st with
  | .idle =>
    let t := (s.latch hop opcode address op0).latchPayload payload
    t.writeAll t.frame .frameSent
  | _ => .next s

end Sys2Proof.Machine
end

