-- ==== Sys2Proof/Machine/Operands.lean ====
section
/-! DEFINITION. The operand forms: the sampled host signals, the payload a phase sends, and the size of a payload read. -/

namespace Sys2Proof.Machine

open Sys2Proof

/-- The host's signals of this step come onto the port: the next scripted ones, or nothing presented. What was on the port
before is lost, whether or not a step took it (R37, R151). Assumption log 1. -/
def State.sample (s : State) : State :=
  match s.script with
  | [] => { s with port := HostPort.quiet }
  | p :: rest => { s with port := p, script := rest }

/-- `len` of a payload phase: `op0`, a plain count, 0 meaning zero bytes (R28, R86). -/
def State.len (s : State) : Nat := s.op0.toNat

/-- `op0 - cnt`, the bytes still missing and the size of the next payload read (R106, R158). -/
def State.missing (s : State) : Nat := s.op0.toNat - s.cnt.toNat

/-- `buf[0..op0-1]`, what the payload write sends and what `ReadData` returns (R30). -/
def State.payloadBytes (s : State) : List Byte := s.buf.readRange 0 s.len

/-- The received bytes stored at `buf[cnt..]` and counted (R158). -/
def State.storeReceived (s : State) (bytes : List Byte) : State :=
  { s with
    buf := s.buf.writeRange s.cnt.toNat bytes
    cnt := s.cnt + BitVec.ofNat 8 bytes.length }

end Sys2Proof.Machine
end

