-- ==== Sys2Proof/Machine/Controller.lean ====
section
/-! DEFINITION. The controller's own steps (43_state_machine.md R152 to R162), the host's `Return` and the reset event, and
the fetch of an instruction: from the host's signals in `Idle`, from the channel in the two handshake waits. -/

namespace Sys2Proof.Machine

open Sys2Proof

/-- What a step finds to do: an instruction with the state it runs in, or a step that is no instruction. -/
inductive Fetch where
  | instr (i : Instr) (s : State)
  | other (o : Host.Outcome State Fault Refusal)

/-! ## The payload phase: leaving `AckReceived` -/

/-- `WritePage`'s payload in one write (R157). -/
def State.payloadWrite (s : State) : Host.Outcome State Fault Refusal := s.writeAll s.payloadBytes .payloadTransferred

/-- One payload read of `ReadData` on its answer (R158): error flag, then no byte, else the bytes are stored. -/
def State.afterPayloadRead (s : State) (a : ReadAnswer) : State :=
  if a.error then s.raise .transport
  else if a.bytes = [] then s.raise .readTimeout
  else s.storeReceived a.bytes

/-- One payload read of `ReadData` (R158): `ChanRead(op0 - cnt)`. -/
def State.payloadRead (s : State) : Host.Outcome State Fault Refusal :=
  match s.chanRead s.missing with
  | none => .refused .answerOutsideDomain
  | some (a, t) => .next (t.afterPayloadRead a)

/-- The step out of `AckReceived`, by `hop` and, for `ReadData`, by `cnt` (R156 to R159, R165). -/
def State.payloadPhase (s : State) : Host.Outcome State Fault Refusal :=
  if s.hop = hopSendCommand then .next (s.enter .done)
  else if s.hop = hopWritePage then s.payloadWrite
  else if s.hop = hopReadData then
    if s.cnt < s.op0 then s.payloadRead
    else if s.cnt = s.op0 then .next (s.enter .payloadTransferred)
    else .fault .noControllerStep
  else .fault .noControllerStep

/-! ## The handshake waits -/

/-- The one-byte read of `WaitByte` (R114) and what it fetches: a marker is an instruction of the table; an error, no byte
or another byte ends the operation (R154, R162). -/
def State.fetchMarker (s : State) : Fetch :=
  match s.chanRead Config.handshakeLen with
  | none => .other (.refused .answerOutsideDomain)
  | some (a, t) =>
    if a.error then .other (.next (t.raise .transport))
    else
      match a.bytes with
      | [] => .other (.next (t.raise .readTimeout))
      | b :: _ =>
        match decodeHs [b] with
        | .ok i => .instr i t
        | .error _ => .other (.next (t.receiveByte b))

/-! ## The host -/

/-- `Idle`: a requested `Start` is fetched from the signals (R151); a reserved selector changes nothing (R92); signals with
a payload of another length than announced cannot be presented (R37). Assumption log 8, 9, 21. -/
def State.fetchStart (s : State) : Fetch :=
  if s.port.start then
    match decodePort s.port with
    | .ok i => .instr i s
    | .error .payloadLength => .other (.refused .payloadLengthMismatch)
    | .error _ => .other (.next s)
  else .other (.next s)

/-- `Done` and `Failed`: only `Return` leaves them (R163, R164, R167). Assumption log 21. -/
def State.awaitReturn (s : State) : State := if s.port.ret then s.hostReturn else s

/-! ## The step, but for running an instruction -/

/-- What the step does in a state whose host signals are sampled (R150, R165); a reset comes before everything else
(R211). -/
def State.fetch (s : State) : Fetch :=
  if s.port.rst then .other (.next s.resetEvent)
  else
    match s.st with
    | .idle => s.fetchStart
    | .frameSent => .other (.next (s.enter .ackAwaited))
    | .ackAwaited => s.fetchMarker
    | .ackReceived => .other s.payloadPhase
    | .payloadTransferred => .other (.next (s.enter .completionAwaited))
    | .completionAwaited => s.fetchMarker
    | .done => .other (.next s.awaitReturn)
    | .failed => .other (.next s.awaitReturn)

/-! ## Presenting one instruction (assumption log 15, 16) -/

/-- The block in `Idle` with these signals presented in the next step. -/
def State.present (s : State) (p : HostPort) : State := { s with st := .idle, script := p :: s.script }

/-- The signals of the operation whose frame this is, named by the frame; a `WritePage` presents as many zero bytes as the
frame announces. -/
def framePort (c : Command) : HostPort :=
  let op := if c.opcode = opWritePage then hopWritePage else if c.opcode = opRead then hopReadData else hopSendCommand
  { startPort op c.opcode c.address c.operand0
      (if op = hopWritePage then List.replicate c.operand0.toNat 0 else []) with
    viaFrame := true }

/-- The block awaiting a handshake byte, with these bytes as the channel's next answer: the completion wait for the marker
`SUCCESS`, the acknowledgment wait for every other byte. -/
def State.deliver (s : State) (bytes : List Byte) : State :=
  { s with
    st := if bytes = [successValue] then .completionAwaited else .ackAwaited
    script := HostPort.quiet :: s.script
    readAnswers := { bytes := bytes, error := false } :: s.readAnswers }

/-- The state whose next step fetches this encoding. -/
def State.withEncoding (s : State) : Encoded → State
  | .frame bytes =>
    match decodeFrame bytes with
    | some c => s.present (framePort c)
    | none => s
  | .handshake bytes => s.deliver bytes
  | .host p => s.present p

end Sys2Proof.Machine
end

