-- ==== Sys2Proof/Machine/Frames.lean ====
section
/-! DEFINITION. The meanings of the four command frames (40_frame_encoder.md R101 to R104): each is the `Start` of the
operation whose exchange the frame begins. Assumption log 12. -/

namespace Sys2Proof.Machine

open Sys2Proof

/-- `SUCCESS a, p` (R101): `SendCommand(0, a, p)`; the frame is `00 aa aa pp`. -/
def execSuccess (address : Addr) (operand0 : Byte) (s : State) : Host.Outcome State Fault Refusal :=
  s.startOperation hopSendCommand opSuccess address operand0 []

/-- `WRITE a, p` (R102): `SendCommand(1, a, p)`; the frame is `01 aa aa pp`; no payload and no completion follow. -/
def execWrite (address : Addr) (operand0 : Byte) (s : State) : Host.Outcome State Fault Refusal :=
  s.startOperation hopSendCommand opWrite address operand0 []

/-- `WRITE_PAGE a, n` (R103): `WritePage(a, h_payload)` with `n` bytes presented (R37); the frame is `02 aa aa nn`. -/
def execWritePage (address : Addr) (operand0 : Byte) (s : State) : Host.Outcome State Fault Refusal :=
  if s.port.payload.length = operand0.toNat then
    s.startOperation hopWritePage opWritePage address operand0 s.port.payload
  else .refused .payloadLengthMismatch

/-- `READ a, n` (R104): `ReadData(a, n)`; the frame is `03 aa aa nn`. -/
def execRead (address : Addr) (operand0 : Byte) (s : State) : Host.Outcome State Fault Refusal :=
  s.startOperation hopReadData opRead address operand0 []

end Sys2Proof.Machine
end

