-- ==== Sys2Proof/Machine/Markers.lean ====
section
/-! DEFINITION. The meanings of the two handshake markers (41_channel_primitives.md R116, R117): what the byte does after
the one-byte read has delivered it. Assumption log 13. -/

namespace Sys2Proof.Machine

open Sys2Proof

/-- `ACK` (R116): the byte 199 ends the acknowledgment wait (R153); in the completion wait it is a wrong byte (R162). -/
def execAck (s : State) : Host.Outcome State Fault Refusal := .next (s.receiveByte ackValue)

/-- `SUCCESS_HS` (R117): the byte 0 ends the completion wait (R161); in the acknowledgment wait it is a wrong byte
(R154). -/
def execSuccessHs (s : State) : Host.Outcome State Fault Refusal := .next (s.receiveByte successValue)

end Sys2Proof.Machine
end

