-- ==== Sys2Proof/Machine/Operations.lean ====
section
/-! DEFINITION. The meanings of the three host operations (42_protocol_operations.md R130 to R132): the `Start` step of each
(43_state_machine.md R151); what follows is the controller's (R152 to R162). Assumption log 14. -/

namespace Sys2Proof.Machine

open Sys2Proof

/-- `SendCommand(opcode, address, operand0)` (R130): any opcode is sent (R90). -/
def execSendCommand (opcode : Byte) (address : Addr) (operand0 : Byte) (s : State) :
    Host.Outcome State Fault Refusal :=
  s.startOperation hopSendCommand opcode address operand0 []

/-- `WritePage(address, payload)` (R131): `op0` is the payload's length; a payload above 255 bytes is refused (R109). -/
def execWritePageOp (address : Addr) (payload : List Byte) (s : State) : Host.Outcome State Fault Refusal :=
  match payloadOperand payload with
  | some len => s.startOperation hopWritePage opWritePage address len payload
  | none => .refused .payloadTooLong

/-- `ReadData(address, length)` (R132): `op0` is the length. -/
def execReadDataOp (address : Addr) (length : Byte) (s : State) : Host.Outcome State Fault Refusal :=
  s.startOperation hopReadData opRead address length []

end Sys2Proof.Machine
end

