-- ==== Sys2Proof/Machine/Dispatch.lean ====
section
/-! DEFINITION. One arm per instruction, each one call of its meaning. -/

namespace Sys2Proof.Machine

open Sys2Proof

/-- What an instruction does. -/
def exec (i : Instr) (s : State) : Host.Outcome State Fault Refusal :=
  match i with
  | .success address operand0 => Sys2Proof.Machine.execSuccess address operand0 s
  | .write address operand0 => Sys2Proof.Machine.execWrite address operand0 s
  | .writePage address operand0 => Sys2Proof.Machine.execWritePage address operand0 s
  | .read address operand0 => Sys2Proof.Machine.execRead address operand0 s
  | .ack => Sys2Proof.Machine.execAck s
  | .successHs => Sys2Proof.Machine.execSuccessHs s
  | .sendCommand opcode address operand0 => Sys2Proof.Machine.execSendCommand opcode address operand0 s
  | .writePageOp address payload => Sys2Proof.Machine.execWritePageOp address payload s
  | .readDataOp address length => Sys2Proof.Machine.execReadDataOp address length s

end Sys2Proof.Machine
end

