-- ==== Sys2Proof/Machine/Step.lean ====
section
/-! DEFINITION. One step of the machine: sample the host's signals, fetch, and run what was fetched. -/

namespace Sys2Proof.Machine

open Sys2Proof

/-- Run what was fetched. -/
def Fetch.run : Fetch → Host.Outcome State Fault Refusal
  | .instr i s => exec i s
  | .other o => o

/-- One step (43_state_machine.md R150). -/
def step (s : State) : Host.Outcome State Fault Refusal := s.sample.fetch.run

/-- `s` with a table word stored where the next step fetches its instruction: on the host's signals for a frame or a
selector, in the channel for a handshake byte. Assumption log 15, 16. -/
def State.withFetchWord (s : State) (nbits w : Nat) : State :=
  match tableEncoding nbits w with
  | some e => s.withEncoding e
  | none => s

end Sys2Proof.Machine
end

