-- ==== Sys2Proof/Machine/BigStep.lean ====
section
/-! DEFINITION. The big-step view: the routines of 41_channel_primitives.md (R114, R115, R118) and the three operations run
whole, as the pseudocode of 42_protocol_operations.md R130 to R132 gives them. R136 says that this view and the step of
Machine/Step.lean are one behaviour; where they differ the step governs. -/

namespace Sys2Proof.Machine

open Sys2Proof

/-- How a routine ends: it goes on, it has raised an error, or an answer was outside its domain (R60). -/
inductive Routine where
  | ok (s : State)
  | raised (s : State)
  | refused (r : Refusal)
  deriving DecidableEq, Repr

/-- The next part of the pseudocode runs only when the part before it did not raise (R14). -/
def Routine.andThen : Routine → (State → Routine) → Routine
  | .ok s, k => k s
  | .raised s, _ => .raised s
  | .refused r, _ => .refused r

/-- The outcome of a routine that is a whole operation. -/
def Routine.outcome : Routine → Host.Outcome State Fault Refusal
  | .ok s => .next s
  | .raised s => .next s
  | .refused r => .refused r

/-- `WriteAll(data)` (R118). -/
def runWriteAll (data : List Byte) (s : State) : Routine :=
  match s.chanWrite data with
  | none => .refused .answerOutsideDomain
  | some (a, t) =>
    if a.error then .raised (t.raise .transport)
    else if a.count < data.length then .raised (t.raise .shortWrite)
    else .ok t

/-- `WaitByte(expected)` (R114). -/
def runWaitByte (expected : Byte) (s : State) : Routine :=
  match s.chanRead Config.handshakeLen with
  | none => .refused .answerOutsideDomain
  | some (a, t) =>
    if a.error then .raised (t.raise .transport)
    else
      match a.bytes with
      | [] => .raised (t.raise .readTimeout)
      | b :: _ => if b ≠ expected then .raised (t.raise (.handshake expected b)) else .ok t

/-- The loop of `ReadExact` (R115), at most `fuel` turns. -/
def readLoop : Nat → State → Routine
  | 0, s => .ok s
  | fuel + 1, s =>
    if s.cnt < s.op0 then
      match s.chanRead s.missing with
      | none => .refused .answerOutsideDomain
      | some (a, t) =>
        if a.error then .raised (t.raise .transport)
        else if a.bytes = [] then .raised (t.raise .readTimeout)
        else readLoop fuel (t.storeReceived a.bytes)
    else .ok s

/-- `ReadExact(op0)` (R115): at most `op0` turns, each storing at least one byte. -/
def runReadExact (s : State) : Routine := readLoop s.len { s with cnt := 0 }

/-- The part common to the three operations: latch, frame, acknowledgment (R130, and step 1 of R131 and R132). -/
def runCommand (hop : BitVec 2) (opcode : Byte) (address : Addr) (op0 : Byte) (payload : List Byte) (s : State) :
    Routine :=
  let t := (s.latch hop opcode address op0).latchPayload payload
  (runWriteAll (encodeFrame t.opc t.addr t.op0) t).andThen fun t =>
    (runWaitByte ackValue ((t.enter .frameSent).enter .ackAwaited)).andThen fun t => .ok (t.enter .ackReceived)

/-- The completion common to `WritePage` and `ReadData` (R131 step 3, R132 step 3). -/
def runCompletion (s : State) : Routine :=
  (runWaitByte successValue ((s.enter .payloadTransferred).enter .completionAwaited)).andThen fun t =>
    .ok (t.enter .done)

/-- `SendCommand(opcode, address, operand0)` from `Start` to its end (R130). -/
def runSendCommand (opcode : Byte) (address : Addr) (operand0 : Byte) (s : State) : Routine :=
  (runCommand hopSendCommand opcode address operand0 [] s).andThen fun t => .ok (t.enter .done)

/-- `WritePage(address, payload)` from `Start` to its end (R131); a payload above 255 bytes is refused (R109, U1). -/
def runWritePage (address : Addr) (payload : List Byte) (s : State) : Routine :=
  match payloadOperand payload with
  | some len =>
    (runCommand hopWritePage opWritePage address len payload s).andThen fun t =>
      (runWriteAll t.payloadBytes t).andThen runCompletion
  | none => .refused .payloadTooLong

/-- `ReadData(address, length)` from `Start` to its end (R132). -/
def runReadData (address : Addr) (length : Byte) (s : State) : Routine :=
  (runCommand hopReadData opRead address length [] s).andThen fun t => (runReadExact t).andThen runCompletion

end Sys2Proof.Machine
end

