-- ==== Sys2Proof/Machine/Flags.lean ====
section
/-! DEFINITION. The flags of R16: the codes of `st` and `err`, the derived outputs `busy`, `done`, `failed`, and the
results the host may read. -/

namespace Sys2Proof.Machine

open Sys2Proof

/-- The 3-bit code of `st` (R23). Nothing reads it. -/
def St.code : St → BitVec 3
  | .idle => 0#3
  | .frameSent => 1#3
  | .ackAwaited => 2#3
  | .ackReceived => 3#3
  | .payloadTransferred => 4#3
  | .completionAwaited => 5#3
  | .done => 6#3
  | .failed => 7#3

/-- The 3-bit code of `err` (R32); 5, 6 and 7 are no kind's code. -/
def ErrKind.code : ErrKind → BitVec 3
  | .noError => 0#3
  | .transport => 1#3
  | .readTimeout => 2#3
  | .handshake => 3#3
  | .shortWrite => 4#3

/-- `busy` (R34). -/
def St.busy : St → Bool
  | .idle => false
  | .frameSent => true
  | .ackAwaited => true
  | .ackReceived => true
  | .payloadTransferred => true
  | .completionAwaited => true
  | .done => false
  | .failed => false

/-- Output `busy` (R34, R38). -/
def State.busy (s : State) : Bool := s.st.busy

/-- Output `done` (R34, R38). -/
def State.doneOut (s : State) : Bool := decide (s.st = .done)

/-- Output `failed` (R34, R38). -/
def State.failedOut (s : State) : Bool := decide (s.st = .failed)

/-- Output `rdata`: the result of `ReadData`, meaningful only in `Done` of a `ReadData` operation (R31, R38, R134). -/
def State.rdata (s : State) : Option (List Byte) :=
  if s.st = .done ∧ s.hop = hopReadData then some s.payloadBytes else none

/-- The error record the host reads in `Failed` (R35, R135): the kind, and for `HandshakeError` the two bytes, which have
no meaning with another kind (R33, U11). -/
def State.errorRecord (s : State) : Option Error :=
  if s.st = .failed then
    match s.err with
    | .noError => none
    | .transport => some .transport
    | .readTimeout => some .readTimeout
    | .handshake => some (.handshake s.errExp s.errAct)
    | .shortWrite => some .shortWrite
  else none

/-- What a claim about an operation may speak of (R69): the state reached, the transactions made, and the results. -/
structure Observation where
  st : St
  history : List Transaction
  rdata : Option (List Byte)
  errorRecord : Option Error
  deriving DecidableEq, Repr

/-- The observation of a state. -/
def State.observe (s : State) : Observation where
  st := s.st
  history := s.history
  rdata := s.rdata
  errorRecord := s.errorRecord

/-- Blocking bound of an operation with `t` transactions (R230): each call blocks at most one read-timeout. -/
def blockingBound (t : Nat) : Nat := t * Config.tReadTimeout

end Sys2Proof.Machine
end

