-- ==== Sys2Proof/Safety.lean ====
section
/-! DEFINITION. What counts as a safe state and a safe run, and the words the claims use: the invariants of 10_state.md R41,
the arrows of 43_state_machine.md R166, what a `Start` latches, runs of many steps. -/

namespace Sys2Proof.Machine

open Sys2Proof

/-! ## Invariants (R41) -/

/-- R41 (a): outside `Idle`, `st = Failed` exactly when `err ≠ None`. -/
abbrev State.recordAgrees (s : State) : Prop := s.st ≠ .idle → (s.st = .failed ↔ s.err ≠ .noError)

/-- R41 (b): `cnt <= op0` whenever `busy = 1` or `done = 1`. -/
abbrev State.countBounded (s : State) : Prop := (s.busy = true ∨ s.st = .done) → s.cnt ≤ s.op0

/-- R41 (c): `cnt = 0` in every operation but `ReadData`. -/
abbrev State.countOnlyForReads (s : State) : Prop := s.st ≠ .idle → s.hop ≠ hopReadData → s.cnt = 0#8

/-- R41 (d): past the payload phase of a `ReadData`, `cnt = op0`. -/
abbrev State.countComplete (s : State) : Prop :=
  (s.st = .payloadTransferred ∨ s.st = .completionAwaited ∨ s.st = .done) → s.hop = hopReadData → s.cnt = s.op0

/-- R41 (e): `hop` is not 3 while an operation is in progress or waits to be returned. -/
abbrev State.selectorLegal (s : State) : Prop := s.st ≠ .idle → s.hop ≠ 3#2

/-- R41 (f): the states past the payload belong to `WritePage` and `ReadData`. -/
abbrev State.payloadStates (s : State) : Prop :=
  (s.st = .payloadTransferred ∨ s.st = .completionAwaited) → s.hop = hopWritePage ∨ s.hop = hopReadData

/-- The control invariant: R41 (a) to (f). -/
abbrev State.Inv (s : State) : Prop :=
  s.recordAgrees ∧ s.countBounded ∧ s.countOnlyForReads ∧ s.countComplete ∧ s.selectorLegal ∧ s.payloadStates

/-- `WritePage` and `ReadData` hold the opcodes 2 and 3 (R26). -/
abbrev State.opcodeAgrees (s : State) : Prop :=
  s.st ≠ .idle → (s.hop = hopWritePage → s.opc = opWritePage) ∧ (s.hop = hopReadData → s.opc = opRead)

/-- A `HandshakeError` on record names a marker as the expected byte and another byte as the actual one (R33, R183). -/
abbrev State.handshakeTruth (s : State) : Prop :=
  s.st = .failed → s.err = .handshake → s.errAct ≠ s.errExp ∧ (s.errExp = ackValue ∨ s.errExp = successValue)

/-- The payload buffer is in canonical form. -/
abbrev State.BufCanonical (s : State) : Prop := s.buf.wf = true

/-! ## Runs -/

/-- `n` steps, stopping at the first fault or refusal. -/
abbrev steps (n : Nat) (s : State) : Host.Outcome State Fault Refusal := Sys2Proof.core.run n s

/-- No reset in the coming step. -/
abbrev State.noReset (s : State) : Prop := s.sample.port.rst = false

/-- The host requests exactly one `Start`, in the coming step, and nothing afterwards. -/
abbrev State.oneStart (s : State) (p : HostPort) : Prop :=
  s.script = [p] ∧ p.rst = false ∧ p.start = true

/-- The outcome of an operation once the host's signals are back to nothing presented. -/
def settled : Host.Outcome State Fault Refusal → Host.Outcome State Fault Refusal
  | .next t => .next { t with port := HostPort.quiet, script := [] }
  | .fault r => .fault r
  | .refused r => .refused r

/-- The outcome without the signals of the step that gave it. -/
def portless : Host.Outcome State Fault Refusal → Host.Outcome State Fault Refusal
  | .next t => .next { t with port := HostPort.quiet }
  | .fault r => .fault r
  | .refused r => .refused r

/-- The outcome is a state with this property (an outcome that is no state has it not). -/
def holdsNext (P : State → Prop) : Host.Outcome State Fault Refusal → Prop
  | .next t => P t
  | .fault _ => False
  | .refused _ => False

/-- Two runs show the same: the same observation, or the same stop. -/
def sameShown : Host.Outcome State Fault Refusal → Host.Outcome State Fault Refusal → Prop
  | .next t, .next u => t.observe = u.observe
  | .fault r, .fault q => r = q
  | .refused r, .refused q => r = q
  | _, _ => False

/-- Two states in which the world outside the block is the same. -/
abbrev State.sameOutside (s t : State) : Prop :=
  s.history = t.history ∧ s.script = t.script ∧ s.writeAnswers = t.writeAnswers ∧ s.readAnswers = t.readAnswers ∧
    s.freeCount = t.freeCount

/-! ## The arrows (R166) -/

/-- Every arrow of R166, with the waiting of `Idle`, `Done` and `Failed` (assumption log 21). -/
def arrow : St → St → Bool
  | .idle, .idle => true
  | .idle, .frameSent => true
  | .idle, .failed => true
  | .frameSent, .ackAwaited => true
  | .ackAwaited, .ackReceived => true
  | .ackAwaited, .failed => true
  | .ackReceived, .done => true
  | .ackReceived, .payloadTransferred => true
  | .ackReceived, .ackReceived => true
  | .ackReceived, .failed => true
  | .payloadTransferred, .completionAwaited => true
  | .completionAwaited, .done => true
  | .completionAwaited, .failed => true
  | .done, .idle => true
  | .done, .done => true
  | .failed, .idle => true
  | .failed, .failed => true
  | _, _ => false

/-! ## What a `Start` latches (R151) -/

/-- The command and payload of a `Start`. -/
structure StartFields where
  hop : BitVec 2
  opc : Byte
  addr : Addr
  op0 : Byte
  payload : List Byte
  deriving DecidableEq, Repr

/-- The state with the command latched, before the frame is sent (R151, part 1). -/
def StartFields.latched (f : StartFields) (s : State) : State :=
  { s with
    hop := f.hop
    opc := f.opc
    addr := f.addr
    op0 := f.op0
    cnt := 0#8
    err := .noError
    buf := s.buf.writeRange 0 f.payload }

/-- The four bytes of the frame a `Start` sends (R100). -/
def StartFields.frame (f : StartFields) : List Byte :=
  [f.opc, f.addr.extractLsb' 8 8, f.addr.extractLsb' 0 8, f.op0]

end Sys2Proof.Machine

namespace Sys2Proof

open Sys2Proof.Machine

/-- What each instruction that is a `Start` latches (R87, R151), where its payload can be presented. -/
def Instr.startFields : Instr → State → Option StartFields
  | .success a p, _ => some ⟨0#2, 0#8, a, p, []⟩
  | .write a p, _ => some ⟨0#2, 1#8, a, p, []⟩
  | .writePage a p, s =>
    if s.port.payload.length = p.toNat then some ⟨1#2, 2#8, a, p, s.port.payload⟩ else none
  | .read a p, _ => some ⟨2#2, 3#8, a, p, []⟩
  | .ack, _ => none
  | .successHs, _ => none
  | .sendCommand o a p, _ => some ⟨0#2, o, a, p, []⟩
  | .writePageOp a payload, _ =>
    if payload.length ≤ 255 then some ⟨1#2, 2#8, a, BitVec.ofNat 8 payload.length, payload⟩ else none
  | .readDataOp a n, _ => some ⟨2#2, 3#8, a, n, []⟩

/-- The most transactions an operation makes (R169, R230). -/
def Instr.transactionBound : Instr → Nat
  | .success _ _ => 2
  | .write _ _ => 2
  | .writePage _ _ => 4
  | .read _ p => 3 + p.toNat
  | .ack => 0
  | .successHs => 0
  | .sendCommand _ _ _ => 2
  | .writePageOp _ _ => 4
  | .readDataOp _ n => 3 + n.toNat

/-- The most steps an operation takes from its `Start` to `Done` or `Failed` (R168). -/
def Instr.stepBound : Instr → Nat
  | .success _ _ => 4
  | .write _ _ => 4
  | .writePage _ _ => 6
  | .read _ p => 6 + p.toNat
  | .ack => 0
  | .successHs => 0
  | .sendCommand _ _ _ => 4
  | .writePageOp _ _ => 6
  | .readDataOp _ n => 6 + n.toNat

end Sys2Proof

/-! ## The liveness premise on the transport (R229) -/

namespace Sys2Proof.Machine

open Sys2Proof

/-- A transaction the block issues and waits for (R64): the number of bytes offered or asked for. -/
inductive Request where
  | write (k : Nat)
  | read (k : Nat)
  deriving DecidableEq, Repr

/-- The transaction that a step issues in a state whose host signals are sampled: the frame, a handshake byte, or the
payload (R54); none in a silent step, a refused event, a reset or a wait. -/
def State.request (u : State) : Option Request :=
  if u.port.rst then none
  else
    match u.st with
    | .idle =>
      if u.port.start then
        match decodePort u.port with
        | .ok i => (i.startFields u).map fun _ => .write Config.frameLen
        | .error _ => none
      else none
    | .frameSent => none
    | .ackAwaited => some (.read Config.handshakeLen)
    | .ackReceived =>
      if u.hop = hopWritePage then some (.write u.len)
      else if u.hop = hopReadData ∧ u.cnt < u.op0 then some (.read u.missing)
      else none
    | .payloadTransferred => none
    | .completionAwaited => some (.read Config.handshakeLen)
    | .done => none
    | .failed => none

/-- The transport answers this transaction, with an answer of the domain of R60. -/
def State.answers (u : State) : Request → Bool
  | .write k => (u.writeAnswer k).isSome
  | .read k => (u.readAnswer k).isSome

/-- The transaction of the coming step, if it issues one, is answered. -/
def State.transactionAnswered (s : State) : Bool :=
  match s.sample.request with
  | none => true
  | some r => s.sample.answers r

/-- The state an outcome gives, if it gives one, has its next transaction answered. -/
def answeredAfter : Host.Outcome State Fault Refusal → Bool
  | .next t => t.transactionAnswered
  | .fault _ => true
  | .refused _ => true

/-- THE LIVENESS PREMISE of R229 and U8, on the transport: every transaction that the coming `n` steps issue is answered.
A claim that an operation ends takes it as a hypothesis. Assumption log 5. -/
abbrev State.TransportAnswers (n : Nat) (s : State) : Prop := ∀ k < n, answeredAfter (steps k s) = true

end Sys2Proof.Machine
end

