-- ==== Sys2Proof/Certificates/Slice0/Obligations.lean ====
section
/-! DEFINITION. The statements for the provers. Each docstring names the rules of spec/ it formalises, or the log entry for
what is the model's own. -/

open Sys2Proof Sys2Proof.Machine

/-! ## Reset -/

/-- The state after reset: `st = Idle`, `err = None`, the three derived outputs 0, no result and no error record to read, and
the channel untouched (R210, R212, R40). The registers that R40 leaves unspecified are the model's choice (log 6) and are not
spoken of. -/
def Obligations.ResetStateIsIdleWithoutError : Prop :=
  State.reset.st = .idle ∧ State.reset.err = .noError ∧ State.reset.busy = false ∧ State.reset.doneOut = false ∧
    State.reset.failedOut = false ∧ State.reset.rdata = none ∧ State.reset.errorRecord = none ∧
    State.reset.history = []

/-- A reset event in any state, in the middle of an operation too, gives `st = Idle` and `err = None` and makes no
transaction; the other registers are unspecified and nothing is said of them (R210, R211). -/
def Obligations.ResetEventAbandonsTheOperation : Prop :=
  ∀ s : State, s.sample.port.rst = true →
    ∃ t, step s = .next t ∧ t.st = .idle ∧ t.err = .noError ∧ t.busy = false ∧ t.doneOut = false ∧
      t.failedOut = false ∧ t.rdata = none ∧ t.errorRecord = none ∧ t.history = s.history ∧
      t.writeAnswers = s.writeAnswers ∧ t.readAnswers = s.readAnswers

/-- The state after reset meets every invariant stated below. -/
def Obligations.ResetSatisfiesTheInvariants : Prop :=
  State.reset.Inv ∧ State.reset.opcodeAgrees ∧ State.reset.handshakeTruth ∧ State.reset.BufCanonical

/-! ## The step and the encodings -/

/-- A step runs the instruction it decodes: from the host's signals in `Idle` (the state is `s.sample`, the signals on the
port), and from the byte the channel delivers in a handshake wait (the state has the one-byte read answered and recorded).
The step is then `exec` of it, with nothing added after it. The forms of the fetch are the model's (log 1, 13, 14). -/
def Obligations.StepRunsTheDecodedInstruction : Prop :=
  (∀ (s : State) (i : Instr), s.noReset → s.st = .idle → s.sample.port.start = true →
    decodePort s.sample.port = .ok i → step s = exec i s.sample) ∧
  (∀ (s : State) (b : Byte) (i : Instr), s.noReset → (s.st = .ackAwaited ∨ s.st = .completionAwaited) →
    s.readAnswer 1 = some ⟨[b], false⟩ → decode (.handshake [b]) = .ok i →
    step s = exec i { s.sample.afterRead with history := s.history ++ [.read 1 ⟨[b], false⟩] })

/-- Words written out from the spec's encodings (vectors V1 to V8, rules R88, R89, R84) decode to the instructions they stand
for. -/
def Obligations.WordsOfTheSpecDecode : Prop :=
  decode (.frame [0x00#8, 0x00#8, 0x00#8, 0x00#8]) = .ok (.success 0x0000#16 0x00#8) ∧
  decode (.frame [0x01#8, 0x00#8, 0x10#8, 0x41#8]) = .ok (.write 0x0010#16 0x41#8) ∧
  decode (.frame [0x02#8, 0xAB#8, 0xCD#8, 0xFF#8]) = .ok (.writePage 0xABCD#16 0xFF#8) ∧
  decode (.frame [0x03#8, 0x12#8, 0x34#8, 0x00#8]) = .ok (.read 0x1234#16 0x00#8) ∧
  decode (.handshake [0xC7#8]) = .ok .ack ∧
  decode (.handshake [0x00#8]) = .ok .successHs ∧
  decode (.host { HostPort.quiet with start := true, op := 0b00#2, opcode := 199#8, addr := 0x8001#16, op0 := 7#8 }) =
    .ok (.sendCommand 199#8 0x8001#16 7#8) ∧
  decode (.host { HostPort.quiet with start := true, op := 0b01#2, addr := 0x0100#16, op0 := 2#8, payload := [1#8, 2#8] }) =
    .ok (.writePageOp 0x0100#16 [1#8, 2#8]) ∧
  decode (.host { HostPort.quiet with start := true, op := 0b10#2, addr := 0xFFFF#16, op0 := 255#8 }) =
    .ok (.readDataOp 0xFFFF#16 255#8)

/-- The round trip of the frame (R107). -/
def Obligations.FrameRoundTrip : Prop :=
  ∀ (o : Byte) (a : Addr) (p : Byte), decodeFrame (encodeFrame o a p) = some ⟨o, a, p⟩

/-- The frame decoder is total on 4-byte sequences and the frame is a bijection (R94, R108): every 4-byte sequence is the
frame of exactly one command. -/
def Obligations.FrameIsABijection : Prop :=
  (∀ f : List Byte, f.length = 4 → ∃ c : Command, decodeFrame f = some c ∧ encodeFrame c.opcode c.address c.operand0 = f ∧
    ∀ (o : Byte) (a : Addr) (p : Byte), encodeFrame o a p = f → c = ⟨o, a, p⟩) ∧
  ∀ f : List Byte, f.length ≠ 4 → decodeFrame f = none

/-- The layout of the frame (R81, R100), and the word view with byte `i` at bits `31-8i` to `24-8i` (R82). -/
def Obligations.FrameLayout : Prop :=
  ∀ (o : Byte) (a : Addr) (p : Byte),
    encodeFrame o a p = [o, a.extractLsb' 8 8, a.extractLsb' 0 8, p] ∧
    frameBytes (frameWord o a p) = encodeFrame o a p ∧
    (frameWord o a p).toNat = o.toNat * 2 ^ 24 + a.toNat * 2 ^ 8 + p.toNat

/-- The opcode table's words: a 32-bit word is the row its bits 31 to 24 select, with the address in bits 23 to 8 and the
operand in bits 7 to 0; a word with an opcode above 3 is no row (R88, R90). -/
def Obligations.TableWordsSelectTheirRow : Prop :=
  ∀ (o : Byte) (a : Addr) (p : Byte),
    decodeTableWord 32 (o.toNat * 2 ^ 24 + a.toNat * 2 ^ 8 + p.toNat) =
      if o = 0#8 then some (.success a p)
      else if o = 1#8 then some (.write a p)
      else if o = 2#8 then some (.writePage a p)
      else if o = 3#8 then some (.read a p)
      else none

/-- Decode and encode agree on every well-formed instruction, with every operand at every value its encoding admits
(R107 for the frames; R83, R84 for the markers and the selectors); an instruction that is not well formed, a payload above
255 bytes, has no encoding (R109). -/
def Obligations.DecodeOfEncode : Prop :=
  (∀ i : Instr, i.WellFormed → ∃ e, encode i = some e ∧ decode e = .ok i) ∧
  ∀ i : Instr, ¬ i.WellFormed → encode i = none

/-- Encode and decode agree the other way: what decodes is well formed and is encoded by the same frame, the same handshake
byte, or the same selector with the same operands the operation uses (R37, R87). -/
def Obligations.EncodeOfDecode : Prop :=
  (∀ (bytes : List Byte) (i : Instr), decode (.frame bytes) = .ok i → i.WellFormed ∧ encode i = some (.frame bytes)) ∧
  (∀ (bytes : List Byte) (i : Instr), decode (.handshake bytes) = .ok i →
    i.WellFormed ∧ encode i = some (.handshake bytes)) ∧
  (∀ (p : HostPort) (i : Instr), decode (.host p) = .ok i → i.WellFormed ∧
    ∃ q : HostPort, encode i = some (.host q) ∧ q.op = p.op ∧ q.addr = p.addr ∧ q.op0 = p.op0 ∧
      (p.op = 0#2 → q.opcode = p.opcode) ∧ (p.op = 1#2 → q.payload = p.payload))

/-- What stands for no row is rejected by name: opcodes 4 to 255 (R90), handshake bytes other than the markers (R91), the
selector 3 (R92), and a payload whose length is not `h_op0` (R37). -/
def Obligations.ReservedEncodingsAreRejected : Prop :=
  (∀ (o : Byte) (a : Addr) (p : Byte), 3#8 < o → decode (.frame (encodeFrame o a p)) = .error (.reservedOpcode o)) ∧
  (∀ b : Byte, b ≠ 199#8 → b ≠ 0#8 → decode (.handshake [b]) = .error (.unknownMarker b)) ∧
  (∀ p : HostPort, p.op = 3#2 → decode (.host p) = .error .reservedSelector) ∧
  (∀ p : HostPort, p.op = 1#2 → p.payload.length ≠ p.op0.toNat → decode (.host p) = .error .payloadLength)

/-- A `Start` may be named by its selector or by the frame it emits: the step is the same but for the flag itself. The flag
is the model's own (log 2); the statement shows that it adds no behaviour. -/
def Obligations.NamingByFrameChangesNothing : Prop :=
  ∀ (s : State) (p : HostPort) (rest : List HostPort),
    portless (step { s with script := { p with viaFrame := true } :: rest }) =
      portless (step { s with script := { p with viaFrame := false } :: rest })

/-! ## Starting an operation: Idle to FrameSent -/

/-- `SEND_COMMAND` in `Idle`, the frame write accepted whole (R130, R151): the command is latched whatever the opcode (R90),
the 4-byte frame is the one transaction, `st` is `FrameSent`, and nothing else changes. -/
def Obligations.SendCommandSendsItsFrame : Prop :=
  ∀ (o : Byte) (a : Addr) (p : Byte) (s : State), s.st = .idle → s.writeAnswer 4 = some ⟨4, false⟩ →
    exec (.sendCommand o a p) s = .next { s.afterWrite with
      st := .frameSent, hop := 0#2, opc := o, addr := a, op0 := p, cnt := 0#8, err := .noError
      history := s.history ++ [.write [o, a.extractLsb' 8 8, a.extractLsb' 0 8, p] ⟨4, false⟩] }

/-- `WRITE_PAGE_OP` in `Idle`, the frame write accepted whole (R131, R151): the opcode is 2, the operand the payload's length,
and the payload is latched from index 0 up. -/
def Obligations.WritePageSendsItsFrame : Prop :=
  ∀ (a : Addr) (payload : List Byte) (s : State), payload.length ≤ 255 → s.st = .idle →
    s.writeAnswer 4 = some ⟨4, false⟩ →
    exec (.writePageOp a payload) s = .next { s.afterWrite with
      st := .frameSent, hop := 1#2, opc := 2#8, addr := a, op0 := BitVec.ofNat 8 payload.length, cnt := 0#8
      err := .noError, buf := s.buf.writeRange 0 payload
      history := s.history ++
        [.write [2#8, a.extractLsb' 8 8, a.extractLsb' 0 8, BitVec.ofNat 8 payload.length] ⟨4, false⟩] }

/-- `READ_DATA_OP` in `Idle`, the frame write accepted whole (R132, R151): the opcode is 3, the operand the length. -/
def Obligations.ReadDataSendsItsFrame : Prop :=
  ∀ (a : Addr) (n : Byte) (s : State), s.st = .idle → s.writeAnswer 4 = some ⟨4, false⟩ →
    exec (.readDataOp a n) s = .next { s.afterWrite with
      st := .frameSent, hop := 2#2, opc := 3#8, addr := a, op0 := n, cnt := 0#8, err := .noError
      history := s.history ++ [.write [3#8, a.extractLsb' 8 8, a.extractLsb' 0 8, n] ⟨4, false⟩] }

/-- The frames `SUCCESS` and `WRITE` in `Idle`, accepted whole (R101, R102): each is the `SendCommand` of its opcode, and the
frame sent is the instruction's own encoding. -/
def Obligations.SuccessAndWriteFramesAreSent : Prop :=
  ∀ (a : Addr) (p : Byte) (s : State), s.st = .idle → s.writeAnswer 4 = some ⟨4, false⟩ →
    exec (.success a p) s = .next { s.afterWrite with
      st := .frameSent, hop := 0#2, opc := 0#8, addr := a, op0 := p, cnt := 0#8, err := .noError
      history := s.history ++ [.write [0#8, a.extractLsb' 8 8, a.extractLsb' 0 8, p] ⟨4, false⟩] } ∧
    exec (.write a p) s = .next { s.afterWrite with
      st := .frameSent, hop := 0#2, opc := 1#8, addr := a, op0 := p, cnt := 0#8, err := .noError
      history := s.history ++ [.write [1#8, a.extractLsb' 8 8, a.extractLsb' 0 8, p] ⟨4, false⟩] }

/-- The frame `WRITE_PAGE` in `Idle` with a presented payload of the announced length, accepted whole (R103): the `Start` of
`WritePage`. -/
def Obligations.WritePageFrameIsSent : Prop :=
  ∀ (a : Addr) (p : Byte) (s : State), s.port.payload.length = p.toNat → s.st = .idle →
    s.writeAnswer 4 = some ⟨4, false⟩ →
    exec (.writePage a p) s = .next { s.afterWrite with
      st := .frameSent, hop := 1#2, opc := 2#8, addr := a, op0 := p, cnt := 0#8, err := .noError
      buf := s.buf.writeRange 0 s.port.payload
      history := s.history ++ [.write [2#8, a.extractLsb' 8 8, a.extractLsb' 0 8, p] ⟨4, false⟩] }

/-- The frame `READ` in `Idle`, accepted whole (R104): the `Start` of `ReadData`. -/
def Obligations.ReadFrameIsSent : Prop :=
  ∀ (a : Addr) (p : Byte) (s : State), s.st = .idle → s.writeAnswer 4 = some ⟨4, false⟩ →
    exec (.read a p) s = .next { s.afterWrite with
      st := .frameSent, hop := 2#2, opc := 3#8, addr := a, op0 := p, cnt := 0#8, err := .noError
      history := s.history ++ [.write [3#8, a.extractLsb' 8 8, a.extractLsb' 0 8, p] ⟨4, false⟩] }

/-- How the frame write ends, for every instruction that is a `Start` and every answer of the channel (R151, R112): the
command is latched in any case; with the error flag `TransportError`, else with fewer than 4 bytes `ShortWriteError`, else
`FrameSent`. -/
def Obligations.FrameWriteOutcomes : Prop :=
  ∀ (i : Instr) (f : StartFields) (s : State) (w : WriteAnswer), i.startFields s = some f → s.st = .idle →
    s.writeAnswer 4 = some w →
    exec i s = .next (
      let t : State := { s.afterWrite with
        hop := f.hop, opc := f.opc, addr := f.addr, op0 := f.op0, cnt := 0#8, err := .noError
        buf := s.buf.writeRange 0 f.payload
        history := s.history ++ [.write [f.opc, f.addr.extractLsb' 8 8, f.addr.extractLsb' 0 8, f.op0] w] }
      if w.error then { t with st := .failed, err := .transport }
      else if w.count < 4 then { t with st := .failed, err := .shortWrite }
      else { t with st := .frameSent })

/-- A `Start` outside `Idle` is refused: no step, no change, no transaction (R151, D16); the model answers the unchanged
state (log 8). -/
def Obligations.StartOutsideIdleChangesNothing : Prop :=
  ∀ (i : Instr) (f : StartFields) (s : State), i.startFields s = some f → s.st ≠ .idle → exec i s = .next s

/-- A `Start` with `h_op = 3` is refused: the state does not change and no transaction is made (R92). The signals of the
step are gone afterwards, like those of every step (log 1). -/
def Obligations.ReservedSelectorChangesNothing : Prop :=
  ∀ s : State, s.noReset → s.st = .idle → s.sample.port.start = true → s.sample.port.op = 3#2 →
    step s = .next s.sample

/-- A payload above 255 bytes is refused and not truncated (R109), by the step, by the pseudocode and by the encoder, and so
is a `WRITE_PAGE` frame whose presented payload has another length than it announces (R37); the refusals are the model's
names for it (log 9). -/
def Obligations.UnpresentablePayloadIsRefused : Prop :=
  (∀ (a : Addr) (payload : List Byte) (s : State), 255 < payload.length →
    exec (.writePageOp a payload) s = .refused .payloadTooLong ∧
    runWritePage a payload s = .refused .payloadTooLong ∧ encode (.writePageOp a payload) = none) ∧
  (∀ (a : Addr) (p : Byte) (s : State), s.port.payload.length ≠ p.toNat →
    exec (.writePage a p) s = .refused .payloadLengthMismatch)

/-- An answer outside the domain of R60 has no step: the frame write, the handshake read, the payload write and the payload
read refuse it by name (log 4). -/
def Obligations.AnswerOutsideTheDomainHasNoStep : Prop :=
  (∀ (i : Instr) (f : StartFields) (s : State), i.startFields s = some f → s.st = .idle → s.writeAnswer 4 = none →
    exec i s = .refused .answerOutsideDomain) ∧
  (∀ s : State, s.noReset → (s.st = .ackAwaited ∨ s.st = .completionAwaited) → s.readAnswer 1 = none →
    step s = .refused .answerOutsideDomain) ∧
  (∀ s : State, s.noReset → s.st = .ackReceived → s.hop = 1#2 → s.writeAnswer s.op0.toNat = none →
    step s = .refused .answerOutsideDomain) ∧
  (∀ s : State, s.noReset → s.st = .ackReceived → s.hop = 2#2 → s.cnt < s.op0 →
    s.readAnswer (s.op0.toNat - s.cnt.toNat) = none → step s = .refused .answerOutsideDomain)

/-- The payload of a `WritePage` as latched by `Start`: in a canonical buffer, `buf[i] = payload[i]` below its length, every
other entry unchanged (R30), and the payload phase will send exactly the payload (R71). -/
def Obligations.WritePageLatchesItsPayload : Prop :=
  ∀ (a : Addr) (payload : List Byte) (s : State), payload.length ≤ 255 → s.BufCanonical → s.st = .idle →
    s.writeAnswer 4 = some ⟨4, false⟩ →
    ∃ t, exec (.writePageOp a payload) s = .next t ∧ t.BufCanonical ∧
      (∀ (i : Nat) (h : i < payload.length), t.buf.read i = payload[i]) ∧
      (∀ i : Nat, payload.length ≤ i → t.buf.read i = s.buf.read i) ∧
      t.buf.readRange 0 t.op0.toNat = payload

/-! ## The handshake markers -/

/-- `ACK` in `AckAwaited` (R153, R116): `st` becomes `AckReceived` and nothing else changes. -/
def Obligations.AckEndsTheAcknowledgmentWait : Prop :=
  ∀ s : State, s.st = .ackAwaited → exec .ack s = .next { s with st := .ackReceived }

/-- `SUCCESS_HS` in `CompletionAwaited` (R161, R117): `st` becomes `Done` and nothing else changes. -/
def Obligations.SuccessMarkerEndsTheCompletionWait : Prop :=
  ∀ s : State, s.st = .completionAwaited → exec .successHs s = .next { s with st := .done }

/-- A marker in the other wait is a wrong byte: `HandshakeError` with the expected and the actual byte (R154, R162, R91).
Where no handshake is awaited the byte is no event to the block (the model's reading of R187, log 13). -/
def Obligations.MarkerInTheWrongStateIsAWrongByte : Prop :=
  ∀ s : State,
    (s.st = .completionAwaited →
      exec .ack s = .next { s with st := .failed, err := .handshake, errExp := 0#8, errAct := 199#8 }) ∧
    (s.st = .ackAwaited →
      exec .successHs s = .next { s with st := .failed, err := .handshake, errExp := 199#8, errAct := 0#8 }) ∧
    (s.st ≠ .ackAwaited → s.st ≠ .completionAwaited → exec .ack s = .next s ∧ exec .successHs s = .next s)

/-! ## The controller's own steps -/

/-- The four silent steps change `st` alone (R152, R156, R159, R160). -/
def Obligations.SilentStepsChangeStAlone : Prop :=
  ∀ s : State, s.noReset →
    (s.st = .frameSent → step s = .next { s.sample with st := .ackAwaited }) ∧
    (s.st = .ackReceived → s.hop = 0#2 → step s = .next { s.sample with st := .done }) ∧
    (s.st = .ackReceived → s.hop = 2#2 → s.cnt = s.op0 → step s = .next { s.sample with st := .payloadTransferred }) ∧
    (s.st = .payloadTransferred → step s = .next { s.sample with st := .completionAwaited })

/-- Both handshake reads, for every answer (R153, R154, R161, R162): one read of one byte; the error flag first, then no byte,
then the comparison; the byte is consumed in any case, and nothing but the error record and `st` is written. -/
def Obligations.HandshakeReadOutcomes : Prop :=
  ∀ (s : State) (r : ReadAnswer) (expected : Byte) (onOk : St), s.noReset →
    ((s.st = .ackAwaited ∧ expected = 199#8 ∧ onOk = .ackReceived) ∨
      (s.st = .completionAwaited ∧ expected = 0#8 ∧ onOk = .done)) →
    s.readAnswer 1 = some r →
    step s = .next (
      let t : State := { s.sample.afterRead with history := s.history ++ [.read 1 r] }
      if r.error then { t with st := .failed, err := .transport }
      else match r.bytes with
        | [] => { t with st := .failed, err := .readTimeout }
        | b :: _ =>
          if b = expected then { t with st := onOk }
          else { t with st := .failed, err := .handshake, errExp := expected, errAct := b })

/-- `WritePage`'s payload write, for every answer (R157): `buf[0..op0-1]` in one write, an empty one when `op0 = 0`. -/
def Obligations.PayloadWriteOutcomes : Prop :=
  ∀ (s : State) (w : WriteAnswer), s.noReset → s.st = .ackReceived → s.hop = 1#2 →
    s.writeAnswer s.op0.toNat = some w →
    step s = .next (
      let t : State := { s.sample.afterWrite with
        history := s.history ++ [.write (s.buf.readRange 0 s.op0.toNat) w] }
      if w.error then { t with st := .failed, err := .transport }
      else if w.count < s.op0.toNat then { t with st := .failed, err := .shortWrite }
      else { t with st := .payloadTransferred })

/-- One payload read of `ReadData`, for every answer (R158): a request of `op0 - cnt` bytes; bytes delivered with an error are
not stored (R112). -/
def Obligations.PayloadReadOutcomes : Prop :=
  ∀ (s : State) (r : ReadAnswer), s.noReset → s.st = .ackReceived → s.hop = 2#2 → s.cnt < s.op0 →
    s.readAnswer (s.op0.toNat - s.cnt.toNat) = some r →
    step s = .next (
      let t : State := { s.sample.afterRead with
        history := s.history ++ [.read (s.op0.toNat - s.cnt.toNat) r] }
      if r.error then { t with st := .failed, err := .transport }
      else if r.bytes = [] then { t with st := .failed, err := .readTimeout }
      else { t with
        buf := s.buf.writeRange s.cnt.toNat r.bytes
        cnt := s.cnt + BitVec.ofNat 8 r.bytes.length })

/-- A payload read stores its bytes in arrival order from `buf[cnt]` up, leaves every other entry, counts them without
overflow, never beyond `op0`, and stays in `AckReceived` (R158, R51, R24, R106). -/
def Obligations.PayloadReadStoresInArrivalOrder : Prop :=
  ∀ (s : State) (bytes : List Byte), s.noReset → s.BufCanonical → s.st = .ackReceived → s.hop = 2#2 → s.cnt < s.op0 →
    s.readAnswer (s.op0.toNat - s.cnt.toNat) = some ⟨bytes, false⟩ → bytes ≠ [] →
    ∃ t, step s = .next t ∧ t.st = .ackReceived ∧ t.cnt.toNat = s.cnt.toNat + bytes.length ∧
      t.cnt.toNat ≤ s.op0.toNat ∧
      (∀ (i : Nat) (h : i < bytes.length), t.buf.read (s.cnt.toNat + i) = bytes[i]) ∧
      (∀ i : Nat, (i < s.cnt.toNat ∨ s.cnt.toNat + bytes.length ≤ i) → t.buf.read i = s.buf.read i)

/-! ## The two ends, `raise` and `Return` -/

/-- `raise` (R190): `err`, for a `HandshakeError` also `err_exp` and `err_act`, and `st <- Failed`; nothing else. -/
def Obligations.RaiseWritesOnlyTheRecord : Prop :=
  ∀ (s : State) (expected actual : Byte),
    s.raise .transport = { s with st := .failed, err := .transport } ∧
    s.raise .readTimeout = { s with st := .failed, err := .readTimeout } ∧
    s.raise .shortWrite = { s with st := .failed, err := .shortWrite } ∧
    s.raise (.handshake expected actual) =
      { s with st := .failed, err := .handshake, errExp := expected, errAct := actual }

/-- `Return` from `Done` or `Failed` writes `st <- Idle` and nothing else (R167, R193). -/
def Obligations.ReturnGoesToIdle : Prop :=
  ∀ s : State, s.noReset → (s.st = .done ∨ s.st = .failed) → s.sample.port.ret = true →
    step s = .next { s.sample with st := .idle }

/-- `Return` from any other state is refused: it changes nothing, whatever the step does besides (R167). -/
def Obligations.ReturnElsewhereIsRefused : Prop :=
  (∀ s : State, s.st ≠ .done → s.st ≠ .failed → s.hostReturn = s) ∧
  (∀ (s : State) (p : HostPort) (rest : List HostPort), s.st ≠ .done → s.st ≠ .failed →
    portless (step { s with script := { p with ret := true } :: rest }) =
      portless (step { s with script := { p with ret := false } :: rest }))

/-- `Done` and `Failed` are terminal but for `Return`, and `Idle` is left by nothing but `Start`: without these events nothing
changes, whatever else the host presents (R163, R164, R165, R212). That the model answers a step there, the waiting, is its
choice (log 21). -/
def Obligations.DoneAndFailedAreTerminal : Prop :=
  (∀ s : State, s.noReset → (s.st = .done ∨ s.st = .failed) → s.sample.port.ret = false → step s = .next s.sample) ∧
  ∀ s : State, s.noReset → s.st = .idle → s.sample.port.start = false → step s = .next s.sample

/-! ## Outputs -/

/-- The derived outputs (R34), and the codes of `st` and `err` (R23, R32). -/
def Obligations.DerivedOutputsAndCodes : Prop :=
  (∀ s : State,
    (s.busy = true ↔ s.st = .frameSent ∨ s.st = .ackAwaited ∨ s.st = .ackReceived ∨ s.st = .payloadTransferred ∨
      s.st = .completionAwaited) ∧
    (s.doneOut = true ↔ s.st = .done) ∧ (s.failedOut = true ↔ s.st = .failed)) ∧
  ([St.idle, .frameSent, .ackAwaited, .ackReceived, .payloadTransferred, .completionAwaited, .done, .failed].map
    fun x => x.code.toNat) = [0, 1, 2, 3, 4, 5, 6, 7] ∧
  ([ErrKind.noError, .transport, .readTimeout, .handshake, .shortWrite].map fun x => x.code.toNat) = [0, 1, 2, 3, 4]

/-- What the host may read: bytes only in `Done` of a `ReadData`, and then `buf[0..op0-1]` (R31, R38); an error record only in
`Failed` (R35), the kind and, only for a `HandshakeError`, the two bytes (R33, R135). -/
def Obligations.ResultsAreReadOnlyAtTheEnds : Prop :=
  ∀ s : State,
    (s.st = .done → s.hop = 2#2 → s.rdata = some (s.buf.readRange 0 s.op0.toNat)) ∧
    ((s.st ≠ .done ∨ s.hop ≠ 2#2) → s.rdata = none) ∧
    (s.st ≠ .failed → s.errorRecord = none) ∧
    (s.st = .failed → s.err = .transport → s.errorRecord = some .transport) ∧
    (s.st = .failed → s.err = .readTimeout → s.errorRecord = some .readTimeout) ∧
    (s.st = .failed → s.err = .shortWrite → s.errorRecord = some .shortWrite) ∧
    (s.st = .failed → s.err = .handshake → s.errorRecord = some (.handshake s.errExp s.errAct))

/-! ## Invariants every step keeps -/

/-- R41 (a) to (f) are kept by every step, from every state that meets them. -/
def Obligations.ControlInvariantIsKept : Prop :=
  ∀ s t : State, s.Inv → step s = .next t → t.Inv

/-- `WritePage` and `ReadData` keep the opcodes 2 and 3 in `opc` from `Start` to their end (R26). -/
def Obligations.OpcodeOfTheOperationIsKept : Prop :=
  ∀ s t : State, s.opcodeAgrees → step s = .next t → t.opcodeAgrees

/-- A `HandshakeError` on record carries the truth: `err_exp` is 199 or 0 and `err_act` differs from it (R33, R183). -/
def Obligations.HandshakeRecordIsTrue : Prop :=
  ∀ s t : State, s.handshakeTruth → step s = .next t → t.handshakeTruth

/-- The payload buffer stays in canonical form, with no index outside 0 to 254 (R30, R39; the form is the model's, log 10). -/
def Obligations.BufferStaysCanonical : Prop :=
  ∀ s t : State, s.BufCanonical → step s = .next t → t.BufCanonical

/-- No run is ever stuck: from a state that meets R41, however many steps are taken, whatever the host does and the channel
answers, the machine never stops with a fault; and in a busy state the controller has a step, which ends as soon as its
transaction, if it makes one, is answered (R165; R229 for the answer). -/
def Obligations.NoRunIsStuck : Prop :=
  (∀ (n : Nat) (s : State) (r : Fault), s.Inv → steps n s ≠ .fault r) ∧
  ∀ s : State, s.Inv → s.busy = true → s.transactionAnswered = true → ∃ t, step s = .next t

/-! ## What only some steps may do -/

/-- Without a reset every step follows an arrow of R166 or waits in `Idle`, `Done` or `Failed` (the waiting is the model's,
log 21), and the arrows of the host are taken only on its request: out of `Idle` by `Start`, back to it by `Return`. -/
def Obligations.OnlyTheArrowsOfTheTable : Prop :=
  ∀ s t : State, s.noReset → step s = .next t →
    arrow s.st t.st = true ∧ (s.st = .idle → t.st ≠ .idle → s.sample.port.start = true) ∧
      (s.st ≠ .idle → t.st = .idle → s.sample.port.ret = true)

/-- A step makes at most one transaction and never rewrites the record of the earlier ones (R64, R69). -/
def Obligations.AtMostOneTransactionAStep : Prop :=
  ∀ s t : State, step s = .next t → t.history = s.history ∨ ∃ x, t.history = s.history ++ [x]

/-- The transaction a step makes (R54, R60): the frame at a requested `Start`, `buf[0..op0-1]` for a page, 1 byte for a handshake,
`op0 - cnt` bytes (at least 1) for a payload read; and its answer is in the domain of R60. -/
def Obligations.TransactionsHaveTheirSizes : Prop :=
  ∀ (s t : State) (x : Transaction), step s = .next t → t.history = s.history ++ [x] →
    match x with
    | .write data w => w.count ≤ data.length ∧
        ((s.st = .idle ∧ s.sample.port.start = true ∧ data = [t.opc, t.addr.extractLsb' 8 8, t.addr.extractLsb' 0 8, t.op0]) ∨
          (s.st = .ackReceived ∧ s.hop = 1#2 ∧ data = s.buf.readRange 0 s.op0.toNat))
    | .read k r => r.bytes.length ≤ k ∧
        (((s.st = .ackAwaited ∨ s.st = .completionAwaited) ∧ k = 1) ∨
          (s.st = .ackReceived ∧ s.hop = 2#2 ∧ k = s.op0.toNat - s.cnt.toNat ∧ 1 ≤ k))

/-- The payload phase is entered only by the byte 199, and `Done` only by the byte 0 or, for `SendCommand`, from
`AckReceived` (R155, R156, R66). -/
def Obligations.PhasesAreEnteredOnlyByTheirMarker : Prop :=
  ∀ s t : State, step s = .next t →
    (t.st = .ackReceived → s.st ≠ .ackReceived →
      s.st = .ackAwaited ∧ t.history = s.history ++ [.read 1 ⟨[199#8], false⟩]) ∧
    (t.st = .done → s.st ≠ .done →
      (s.st = .completionAwaited ∧ t.history = s.history ++ [.read 1 ⟨[0#8], false⟩]) ∨
        (s.st = .ackReceived ∧ s.hop = 0#2 ∧ t.history = s.history))

/-- The command registers are written only by `Start` and hold until the next one (R29): a step that is no reset keeps them
and does not leave `Idle`, or it leaves `Idle` and is a requested `Start` (R165: in `Idle` only `Start` is enabled). -/
def Obligations.CommandRegistersHold : Prop :=
  ∀ s t : State, s.noReset → step s = .next t →
    ((s.st = .idle → t.st = .idle) ∧ t.hop = s.hop ∧ t.opc = s.opc ∧ t.addr = s.addr ∧ t.op0 = s.op0) ∨
      (s.st = .idle ∧ s.sample.port.start = true ∧ (t.st = .frameSent ∨ t.st = .failed))

/-- `cnt` and `buf` are written only by `Start` and by a payload read of `ReadData` (R24, R31). -/
def Obligations.CountAndBufferWriters : Prop :=
  ∀ s t : State, s.noReset → step s = .next t →
    ((s.st = .idle → t.st = .idle) ∧ t.cnt = s.cnt ∧ t.buf = s.buf) ∨
      (s.st = .idle ∧ s.sample.port.start = true ∧ t.cnt = 0#8 ∧ (t.hop ≠ 1#2 → t.buf = s.buf)) ∨
      (s.st = .ackReceived ∧ s.hop = 2#2 ∧ t.st = .ackReceived ∧ s.cnt < t.cnt)

/-- The error record is written only by `Start`, which clears `err`, and by a `raise`, which enters `Failed` (R32, R35); the
two bytes only by a `HandshakeError` (R33). -/
def Obligations.ErrorRecordWriters : Prop :=
  ∀ s t : State, s.noReset → step s = .next t →
    (((s.st = .idle → t.st = .idle) ∧ t.err = s.err) ∨
      (s.st = .idle ∧ s.sample.port.start = true ∧ t.st = .frameSent ∧ t.err = .noError) ∨
      ((s.st = .idle → s.sample.port.start = true) ∧ s.st ≠ .failed ∧ t.st = .failed ∧ t.err ≠ .noError)) ∧
    ((t.errExp = s.errExp ∧ t.errAct = s.errAct) ∨
      ((s.st = .ackAwaited ∨ s.st = .completionAwaited) ∧ t.st = .failed ∧ t.err = .handshake))

/-! ## Whole operations -/

/-- The step by step machine runs `SendCommand` to the end that its pseudocode gives (R136), within 4 steps (R168), for every
answer of the channel. -/
def Obligations.SendCommandRunsAsItsPseudocode : Prop :=
  ∀ (o : Byte) (a : Addr) (p : Byte) (q : HostPort) (s : State) (n : Nat), s.st = .idle → s.oneStart q →
    decodePort q = .ok (.sendCommand o a p) → 4 ≤ n → steps n s = settled (runSendCommand o a p s).outcome

/-- The step by step machine runs `WritePage` to the end that its pseudocode gives (R136), within 6 steps (R168). -/
def Obligations.WritePageRunsAsItsPseudocode : Prop :=
  ∀ (a : Addr) (payload : List Byte) (q : HostPort) (s : State) (n : Nat), s.st = .idle → s.oneStart q →
    decodePort q = .ok (.writePageOp a payload) → 6 ≤ n → steps n s = settled (runWritePage a payload s).outcome

/-- The step by step machine runs `ReadData` to the end that its pseudocode gives (R136), within `6 + op0` steps (R168),
however the channel groups the bytes. -/
def Obligations.ReadDataRunsAsItsPseudocode : Prop :=
  ∀ (a : Addr) (len : Byte) (q : HostPort) (s : State) (n : Nat), s.st = .idle → s.oneStart q →
    decodePort q = .ok (.readDataOp a len) → 6 + len.toNat ≤ n → steps n s = settled (runReadData a len s).outcome

/-- Every operation ends (R168, R41) under the liveness premise that R229 asks for, `TransportAnswers`: within its step bound
it is in exactly one of `Done` with `err = None` or `Failed` with one of the four kinds. Without the premise it does so too,
or has stopped at an answer that the transport cannot give (log 4, 5). -/
def Obligations.EveryOperationEnds : Prop :=
  ∀ (i : Instr) (q : HostPort) (s : State), s.st = .idle → s.oneStart q → decodePort q = .ok i →
    (q.op = 1#2 → q.payload.length = q.op0.toNat) →
    (s.TransportAnswers i.stepBound →
      holdsNext (fun t => (t.st = .done ∧ t.err = .noError) ∨ (t.st = .failed ∧ t.err ≠ .noError))
        (steps i.stepBound s)) ∧
    (steps i.stepBound s = .refused .answerOutsideDomain ∨
      holdsNext (fun t => (t.st = .done ∧ t.err = .noError) ∨ (t.st = .failed ∧ t.err ≠ .noError))
        (steps i.stepBound s))

/-- An operation makes at most 2, 4 or `3 + op0` transactions (R169), so it blocks for at most that many read-timeouts
(R230) on a transport that ends each call within one (R229, log 5). -/
def Obligations.TransactionsAreBounded : Prop :=
  ∀ (i : Instr) (q : HostPort) (s t : State) (n : Nat), s.st = .idle → s.oneStart q → decodePort q = .ok i →
    steps n s = .next t →
    ∃ l, t.history = s.history ++ l ∧ l.length ≤ i.transactionBound ∧
      blockingBound l.length ≤ i.transactionBound * Config.tReadTimeout

/-- `WritePage` ends in `Done` exactly when the four answers are a whole frame, the byte 199, a whole payload and the byte 0,
none with an error (section 6 of 95_test_vectors.md, property 5). -/
def Obligations.WritePageSucceedsExactlyWhen : Prop :=
  ∀ (a : Addr) (payload : List Byte) (q : HostPort) (s : State) (w1 w2 : WriteAnswer) (r1 r2 : ReadAnswer)
    (ws : List WriteAnswer) (rs : List ReadAnswer), s.st = .idle → s.oneStart q →
    decodePort q = .ok (.writePageOp a payload) → s.writeAnswers = w1 :: w2 :: ws → s.readAnswers = r1 :: r2 :: rs →
    (holdsNext (fun t => t.st = .done) (steps 6 s) ↔
      w1 = ⟨4, false⟩ ∧ r1 = ⟨[199#8], false⟩ ∧ w2 = ⟨payload.length, false⟩ ∧ r2 = ⟨[0#8], false⟩)

/-- `SendCommand` ends in `Done` exactly when the two answers are a whole frame and the byte 199, neither with an error
(section 6 of 95_test_vectors.md, property 5). -/
def Obligations.SendCommandSucceedsExactlyWhen : Prop :=
  ∀ (o : Byte) (a : Addr) (p : Byte) (q : HostPort) (s : State) (w : WriteAnswer) (r : ReadAnswer)
    (ws : List WriteAnswer) (rs : List ReadAnswer), s.st = .idle → s.oneStart q →
    decodePort q = .ok (.sendCommand o a p) → s.writeAnswers = w :: ws → s.readAnswers = r :: rs →
    (holdsNext (fun t => t.st = .done) (steps 4 s) ↔ w = ⟨4, false⟩ ∧ r = ⟨[199#8], false⟩)

/-- `ReadData` over a channel that delivers its bytes in any non-empty pieces ends in `Done` with exactly the pieces put
together, in `3 + k` transactions for `k` pieces, and takes nothing that follows (R115, R132, R51). -/
def Obligations.ReadDataReturnsWhatArrived : Prop :=
  ∀ (a : Addr) (len : Byte) (pieces : List (List Byte)) (q : HostPort) (s : State) (ws : List WriteAnswer)
    (rs : List ReadAnswer), s.st = .idle → s.BufCanonical → s.oneStart q → decodePort q = .ok (.readDataOp a len) →
    s.writeAnswers = ⟨4, false⟩ :: ws →
    s.readAnswers = ⟨[199#8], false⟩ :: (pieces.map fun piece => ⟨piece, false⟩) ++ ⟨[0#8], false⟩ :: rs →
    (∀ piece ∈ pieces, piece ≠ []) → pieces.flatten.length = len.toNat →
    ∃ t, steps (6 + len.toNat) s = .next t ∧ t.st = .done ∧ t.err = .noError ∧ t.cnt = len ∧
      t.rdata = some pieces.flatten ∧ t.history.length = s.history.length + 3 + pieces.length ∧
      t.writeAnswers = ws ∧ t.readAnswers = rs

/-- No state crosses operations (R21): two machines in `Idle` whose registers and buffers differ in any way, with the same
host and the same channel, show the same observations however many steps they take. -/
def Obligations.OperationsAreIndependentOfThePast : Prop :=
  ∀ (n : Nat) (s t : State), s.st = .idle → t.st = .idle → s.sameOutside t → s.BufCanonical → t.BufCanonical →
    sameShown (steps n s) (steps n t)
end

