-- ==== Sys2Proof/Laws/Decode.lean ====
section
/-! SUPPORT. What the three decoders can answer, and the address split. -/

namespace Sys2Proof

theorem joinAddr_toNat (h l : Byte) : (joinAddr h l).toNat = h.toNat * 256 + l.toNat := by
  have e := BitVec.toNat_append h l
  unfold joinAddr
  rw [e, Nat.shiftLeft_eq, Nat.mul_comm, ← Nat.two_pow_add_eq_or_of_lt l.isLt]

theorem addrHigh_toNat (a : Addr) : (addrHigh a).toNat = a.toNat / 256 := by
  have := a.isLt
  simp only [addrHigh, BitVec.extractLsb'_toNat, Nat.shiftRight_eq_div_pow]
  omega

theorem addrLow_toNat (a : Addr) : (addrLow a).toNat = a.toNat % 256 := by
  simp [addrLow, BitVec.extractLsb'_toNat]

theorem joinAddr_split (a : Addr) : joinAddr (addrHigh a) (addrLow a) = a := by
  apply BitVec.eq_of_toNat_eq
  rw [joinAddr_toNat, addrHigh_toNat, addrLow_toNat]
  omega

@[simp] theorem addrHigh_joinAddr (h l : Byte) : addrHigh (joinAddr h l) = h := by
  apply BitVec.eq_of_toNat_eq
  have := l.isLt
  rw [addrHigh_toNat, joinAddr_toNat]
  omega

@[simp] theorem addrLow_joinAddr (h l : Byte) : addrLow (joinAddr h l) = l := by
  apply BitVec.eq_of_toNat_eq
  have := l.isLt
  rw [addrLow_toNat, joinAddr_toNat]
  omega

/-- The operand of a payload that fits is its length (R28). -/
theorem payloadOperand_of_le {payload : List Byte} (h : payload.length ≤ 255) :
    payloadOperand payload = some (BitVec.ofNat 8 payload.length) := if_pos h

/-- A payload that does not fit has no operand (R109). -/
theorem payloadOperand_of_gt {payload : List Byte} (h : 255 < payload.length) : payloadOperand payload = none :=
  if_neg (Nat.not_le.2 h)

/-- An operand is the length itself, not taken modulo 256 (R109). -/
theorem payloadOperand_toNat {payload : List Byte} {n : Byte} (h : payloadOperand payload = some n) :
    n.toNat = payload.length := by
  unfold payloadOperand at h
  split at h
  · rename_i hl
    cases h
    exact Nat.mod_eq_of_lt (Nat.lt_succ_of_le hl)
  · cases h

/-- A received byte is a marker or is not one (R89, R91). -/
theorem decodeHs_cases (b : Byte) :
    (b = ackValue ∧ decodeHs [b] = .ok .ack) ∨ (b = successValue ∧ decodeHs [b] = .ok .successHs) ∨
    (b ≠ ackValue ∧ b ≠ successValue ∧ decodeHs [b] = .error (.unknownMarker b)) := by
  by_cases h : b = ackValue
  · exact .inl ⟨h, by simp [decodeHs, h]⟩
  · by_cases h2 : b = successValue
    · refine .inr (.inl ⟨h2, ?_⟩)
      subst h2
      simp only [decodeHs, if_neg h]
      simp
    · exact .inr (.inr ⟨h, h2, by simp [decodeHs, h, h2]⟩)

/-- The instruction a port presents is a `Start` (R37). -/
theorem decodeHop_cases {p : HostPort} {i : Instr} (h : decodeHop p = .ok i) :
    (p.op = hopSendCommand ∧ i = .sendCommand p.opcode p.addr p.op0) ∨
    (p.op = hopWritePage ∧ p.payload.length = p.op0.toNat ∧ i = .writePageOp p.addr p.payload) ∨
    (p.op = hopReadData ∧ i = .readDataOp p.addr p.op0) := by
  unfold decodeHop HostPort.payloadFits at h
  split at h
  · cases h
    exact .inl ⟨‹_›, rfl⟩
  · split at h
    · split at h
      · cases h
        exact .inr (.inl ⟨‹_›, of_decide_eq_true ‹_›, rfl⟩)
      · cases h
    · split at h
      · cases h
        exact .inr (.inr ⟨‹_›, rfl⟩)
      · cases h

/-- The frame's row (R88). -/
theorem decodeCmd_encodeFrame (o : Byte) (a : Addr) (p : Byte) :
    decodeCmd (encodeFrame o a p) =
      if o = opSuccess then .ok (.success a p)
      else if o = opWrite then .ok (.write a p)
      else if o = opWritePage then .ok (.writePage a p)
      else if o = opRead then .ok (.read a p)
      else .error (.reservedOpcode o) := by
  simp [decodeCmd, encodeFrame, decodeFrame, joinAddr_split]

/-- A port presents its operation by selector, or by the frame's row that stands for the same operation. -/
theorem decodePort_cases {p : HostPort} {i : Instr} (h : decodePort p = .ok i) :
    decodeHop p = .ok i ∨
    (p.op = hopSendCommand ∧ p.opcode = opSuccess ∧ i = .success p.addr p.op0) ∨
    (p.op = hopSendCommand ∧ p.opcode = opWrite ∧ i = .write p.addr p.op0) ∨
    (p.op = hopWritePage ∧ i = .writePage p.addr p.op0) ∨
    (p.op = hopReadData ∧ i = .read p.addr p.op0) := by
  unfold decodePort at h
  split at h
  · split at h
    · rename_i j hj
      split at h
      · rename_i hx
        cases h
        rw [frameOf, decodeCmd_encodeFrame] at hj
        refine .inr ?_
        have key : ∀ x : BitVec 2, hopSendCommand = x → latchedOpcode x p.opcode = p.opcode := by
          intro x hx; subst hx; simp [latchedOpcode, hopSendCommand, hopWritePage, hopReadData]
        split at hj
        · cases hj
          simp only [Instr.exchange, Option.some.injEq] at hx
          rw [key _ hx] at *
          exact .inl ⟨hx.symm, ‹_›, rfl⟩
        · split at hj
          · cases hj
            simp only [Instr.exchange, Option.some.injEq] at hx
            rw [key _ hx] at *
            exact .inr (.inl ⟨hx.symm, ‹_›, rfl⟩)
          · split at hj
            · cases hj
              simp only [Instr.exchange, Option.some.injEq] at hx
              exact .inr (.inr (.inl ⟨hx.symm, rfl⟩))
            · split at hj
              · cases hj
                simp only [Instr.exchange, Option.some.injEq] at hx
                exact .inr (.inr (.inr ⟨hx.symm, rfl⟩))
              · cases hj
      · exact .inl h
    · exact .inl h
  · exact .inl h

/-- A table word of 32 bits is decoded as its frame. -/
theorem decodeTableWord_frame (w : Nat) : decodeTableWord 32 w = (decodeCmd (tableFrame w)).toOption := by
  cases h : decodeCmd (tableFrame w) <;> simp [decodeTableWord, tableEncoding, decode, h, Except.toOption]

end Sys2Proof
end

