-- ==== Sys2Proof/Laws/Memory.lean ====
section
/-! SUPPORT. The payload buffer: what a read gives after a write, and the canonical form that every operation keeps. -/

namespace Sys2Proof.Machine

open Sys2Proof

/-! ## The canonical form, as a proposition -/

/-- Indices strictly rising, all from `lo` on and below the depth, no entry equal to the unlisted byte. -/
def Memory.CanonicalFrom (lo : Nat) : Memory → Prop
  | [] => True
  | (j, c) :: m => lo ≤ j ∧ j < Config.bufDepth ∧ c ≠ unlisted ∧ Memory.CanonicalFrom (j + 1) m

theorem Memory.CanonicalFrom.mono {lo lo' : Nat} {m : Memory} (h : m.CanonicalFrom lo) (hl : lo' ≤ lo) :
    m.CanonicalFrom lo' := by
  cases m with
  | nil => trivial
  | cons c m => exact ⟨hl.trans h.1, h.2⟩

theorem Memory.CanonicalFrom.ge {lo : Nat} {m : Memory} (h : m.CanonicalFrom lo) : ∀ c ∈ m, lo ≤ c.1 := by
  induction m generalizing lo with
  | nil => simp
  | cons c m ih =>
    intro d hd
    rcases List.mem_cons.1 hd with rfl | hd
    · exact h.1
    · have := ih h.2.2.2 d hd
      have := h.1
      omega

theorem Memory.wf_iff_canonicalFrom (m : Memory) : m.wf = true ↔ m.CanonicalFrom 0 := by
  suffices H : ∀ lo, (m.wf = true ∧ ∀ c ∈ m, lo ≤ c.1) ↔ m.CanonicalFrom lo by
    simpa using H 0
  intro lo
  induction m generalizing lo with
  | nil => simp [Memory.wf, Memory.CanonicalFrom]
  | cons c m ih =>
    constructor
    · rintro ⟨h, hlo⟩
      simp only [Memory.wf, List.pairwise_cons, List.all_cons, Bool.and_eq_true, decide_eq_true_eq] at h
      refine ⟨hlo c (by simp), h.2.1.1, h.2.1.2, (ih (c.1 + 1)).1 ⟨?_, fun d hd => h.1.1 d hd⟩⟩
      simp only [Memory.wf, Bool.and_eq_true, decide_eq_true_eq]
      exact ⟨h.1.2, h.2.2⟩
    · rintro ⟨h1, h2, h3, h4⟩
      obtain ⟨hw, hg⟩ := (ih (c.1 + 1)).2 h4
      simp only [Memory.wf, Bool.and_eq_true, decide_eq_true_eq] at hw
      refine ⟨?_, ?_⟩
      · simp only [Memory.wf, List.pairwise_cons, List.all_cons, Bool.and_eq_true, decide_eq_true_eq]
        exact ⟨⟨fun d hd => hg d hd, hw.1⟩, ⟨h2, h3⟩, hw.2⟩
      · intro d hd
        rcases List.mem_cons.1 hd with rfl | hd
        · exact h1
        · have := hg d hd
          omega

/-! ## One entry -/

@[simp] theorem Memory.read_nil (i : Nat) : Memory.read [] i = unlisted := rfl

theorem Memory.read_cons (j : Nat) (c : Byte) (m : Memory) (i : Nat) :
    Memory.read ((j, c) :: m) i = if i = j then c else Memory.read m i := rfl

/-- Below the first index of a canonical buffer nothing is listed. -/
theorem Memory.CanonicalFrom.read_lt {lo i : Nat} {m : Memory} (h : m.CanonicalFrom lo) (hi : i < lo) :
    m.read i = unlisted := by
  induction m generalizing lo with
  | nil => rfl
  | cons c m ih =>
    have h1 := h.1
    rw [Memory.read_cons, if_neg (by omega)]
    exact ih h.2.2.2 (by omega)

theorem Memory.CanonicalFrom.write {lo i : Nat} {m : Memory} (h : m.CanonicalFrom lo) (hlo : lo ≤ i)
    (hi : i < Config.bufDepth) (v : Byte) : (m.write i v).CanonicalFrom lo := by
  induction m generalizing lo with
  | nil =>
    unfold Memory.write
    split
    · trivial
    · exact ⟨hlo, hi, ‹_›, trivial⟩
  | cons c m ih =>
    obtain ⟨j, c⟩ := c
    obtain ⟨h1, h2, h3, h4⟩ := h
    unfold Memory.write
    split
    · split
      · exact ⟨h1, h2, h3, h4⟩
      · exact ⟨hlo, hi, ‹_›, by omega, h2, h3, h4⟩
    · split
      · split
        · exact h4.mono (by omega)
        · subst ‹i = j›
          exact ⟨hlo, hi, ‹_›, h4⟩
      · exact ⟨h1, h2, h3, ih h4 (by omega)⟩

theorem Memory.CanonicalFrom.read_write {lo i : Nat} {m : Memory} (h : m.CanonicalFrom lo) (hlo : lo ≤ i) (v : Byte)
    (k : Nat) : (m.write i v).read k = if k = i then v else m.read k := by
  induction m generalizing lo with
  | nil =>
    unfold Memory.write
    split
    · subst ‹v = unlisted›; simp
    · simp [Memory.read_cons]
  | cons c m ih =>
    obtain ⟨j, c⟩ := c
    obtain ⟨h1, h2, h3, h4⟩ := h
    unfold Memory.write
    split
    · split
      · subst ‹v = unlisted›
        by_cases hk : k = i
        · subst hk
          rw [if_pos rfl, Memory.read_cons, if_neg (by omega)]
          exact h4.read_lt (by omega)
        · rw [if_neg hk]
      · rw [Memory.read_cons]
    · split
      · subst ‹i = j›
        split
        · subst ‹v = unlisted›
          by_cases hk : k = i
          · subst hk
            rw [if_pos rfl]
            exact h4.read_lt (by omega)
          · rw [if_neg hk, Memory.read_cons, if_neg hk]
        · rw [Memory.read_cons, Memory.read_cons]
          by_cases hk : k = i <;> simp [hk]
      · rw [Memory.read_cons, Memory.read_cons, ih h4 (by omega)]
        by_cases hk : k = j
        · rw [if_pos hk, if_pos hk, if_neg (by omega)]
        · rw [if_neg hk, if_neg hk]

/-- Writing one entry keeps the canonical form. -/
theorem Memory.wf_write {m : Memory} (h : m.wf = true) {i : Nat} (hi : i < Config.bufDepth) (v : Byte) :
    (m.write i v).wf = true :=
  (Memory.wf_iff_canonicalFrom _).2 (((Memory.wf_iff_canonicalFrom m).1 h).write (Nat.zero_le i) hi v)

/-- A read after a write gives the value written at its index and what was there elsewhere. -/
theorem Memory.read_write {m : Memory} (h : m.wf = true) (i : Nat) (v : Byte) (k : Nat) :
    (m.write i v).read k = if k = i then v else m.read k :=
  ((Memory.wf_iff_canonicalFrom m).1 h).read_write (Nat.zero_le i) v k

/-! ## A range -/

@[simp] theorem Memory.writeRange_nil (m : Memory) (start : Nat) : m.writeRange start [] = m := rfl

theorem Memory.writeRange_cons (m : Memory) (start : Nat) (b : Byte) (bytes : List Byte) :
    m.writeRange start (b :: bytes) = (m.write start b).writeRange (start + 1) bytes := rfl

/-- Writing a range inside the buffer keeps the canonical form. -/
theorem Memory.wf_writeRange {m : Memory} (h : m.wf = true) (start : Nat) (bytes : List Byte)
    (hb : start + bytes.length ≤ Config.bufDepth) : (m.writeRange start bytes).wf = true := by
  induction bytes generalizing m start with
  | nil => exact h
  | cons b bytes ih =>
    simp only [List.length_cons] at hb
    exact ih (Memory.wf_write h (by omega) b) (start + 1) (by omega)

/-- A read after a range is written gives the byte of the range at its indices and what was there elsewhere. -/
theorem Memory.read_writeRange {m : Memory} (h : m.wf = true) (start : Nat) (bytes : List Byte)
    (hb : start + bytes.length ≤ Config.bufDepth) (k : Nat) :
    (m.writeRange start bytes).read k =
      if h : start ≤ k ∧ k < start + bytes.length then bytes[k - start]'(by omega) else m.read k := by
  induction bytes generalizing m start with
  | nil => rw [dif_neg (by simp only [List.length_nil]; omega)]; rfl
  | cons b bytes ih =>
    simp only [List.length_cons] at hb
    rw [Memory.writeRange_cons, ih (Memory.wf_write h (by omega) b) (start + 1) (by omega), Memory.read_write h]
    by_cases hk : k = start
    · subst hk
      rw [dif_neg (by omega), dif_pos (by simp)]
      simp
    · by_cases h2 : start + 1 ≤ k ∧ k < start + 1 + bytes.length
      · rw [dif_pos h2, dif_pos (by simp only [List.length_cons]; omega)]
        have : k - start = (k - (start + 1)) + 1 := by omega
        simp only [this, List.getElem_cons_succ]
      · rw [dif_neg h2, dif_neg (by simp only [List.length_cons]; omega), if_neg hk]

@[simp] theorem Memory.readRange_length (m : Memory) (start n : Nat) : (m.readRange start n).length = n := by
  induction n generalizing start with
  | zero => rfl
  | succ n ih => simp [Memory.readRange, ih]

@[simp] theorem Memory.readRange_getElem (m : Memory) (start n i : Nat) (h : i < (m.readRange start n).length) :
    (m.readRange start n)[i] = m.read (start + i) := by
  induction n generalizing start i with
  | zero => simp at h
  | succ n ih =>
    cases i with
    | zero => rfl
    | succ i =>
      simp only [Memory.readRange, List.getElem_cons_succ]
      rw [ih (start + 1) i (by simpa [Memory.readRange] using h)]
      congr 1
      omega

/-- Two buffers that read alike in a range have the same sequence there. -/
theorem Memory.readRange_congr {m m' : Memory} {start n : Nat}
    (h : ∀ i, start ≤ i → i < start + n → m.read i = m'.read i) : m.readRange start n = m'.readRange start n := by
  refine List.ext_getElem (by simp) fun i h1 h2 => ?_
  simp only [Memory.readRange_length] at h1
  simp [h (start + i) (by omega) (by omega)]

/-- Reading back a range that was written whole. -/
theorem Memory.readRange_writeRange {m : Memory} (h : m.wf = true) (start : Nat) (bytes : List Byte)
    (hb : start + bytes.length ≤ Config.bufDepth) :
    (m.writeRange start bytes).readRange start bytes.length = bytes := by
  refine List.ext_getElem (by simp) fun i h1 h2 => ?_
  rw [Memory.readRange_getElem, Memory.read_writeRange h start bytes hb, dif_pos (by omega)]
  simp

/-- A content made entry by entry is canonical. -/
theorem Memory.wf_ofFn (f : Nat → Byte) (n : Nat) (hn : n ≤ Config.bufDepth) : (Memory.ofFn f n).wf = true := by
  simp only [Memory.wf, Bool.and_eq_true, decide_eq_true_eq, List.all_eq_true]
  refine ⟨?_, ?_⟩
  · refine List.Pairwise.filterMap (R := (· < ·)) _ ?_ List.pairwise_lt_range
    intro a b hab c hc d hd
    split at hc <;> split at hd <;> simp_all
    obtain rfl := hc
    obtain rfl := hd
    exact hab
  · intro c hc
    obtain ⟨i, hi, hc⟩ := List.mem_filterMap.1 hc
    split at hc
    · simp at hc
    · simp only [Option.some.injEq] at hc
      obtain rfl := hc
      exact ⟨lt_of_lt_of_le (List.mem_range.1 hi) hn, ‹_›⟩

end Sys2Proof.Machine
end

