-- ==== Sys2Proof/Laws/State.lean ====
section
/-! SUPPORT. One lemma per field and update of the state, and what each update leaves of the channel and of the outputs. -/

namespace Sys2Proof.Machine

open Sys2Proof

/-! ## enter -/

@[simp] theorem State.enter_st (s : State) (target : St) : (s.enter target).st = target := rfl
@[simp] theorem State.enter_hop (s : State) (target : St) : (s.enter target).hop = s.hop := rfl
@[simp] theorem State.enter_opc (s : State) (target : St) : (s.enter target).opc = s.opc := rfl
@[simp] theorem State.enter_addr (s : State) (target : St) : (s.enter target).addr = s.addr := rfl
@[simp] theorem State.enter_op0 (s : State) (target : St) : (s.enter target).op0 = s.op0 := rfl
@[simp] theorem State.enter_cnt (s : State) (target : St) : (s.enter target).cnt = s.cnt := rfl
@[simp] theorem State.enter_buf (s : State) (target : St) : (s.enter target).buf = s.buf := rfl
@[simp] theorem State.enter_err (s : State) (target : St) : (s.enter target).err = s.err := rfl
@[simp] theorem State.enter_errExp (s : State) (target : St) : (s.enter target).errExp = s.errExp := rfl
@[simp] theorem State.enter_errAct (s : State) (target : St) : (s.enter target).errAct = s.errAct := rfl
@[simp] theorem State.enter_history (s : State) (target : St) : (s.enter target).history = s.history := rfl
@[simp] theorem State.enter_port (s : State) (target : St) : (s.enter target).port = s.port := rfl
@[simp] theorem State.enter_script (s : State) (target : St) : (s.enter target).script = s.script := rfl
@[simp] theorem State.enter_writeAnswers (s : State) (target : St) : (s.enter target).writeAnswers = s.writeAnswers := rfl
@[simp] theorem State.enter_readAnswers (s : State) (target : St) : (s.enter target).readAnswers = s.readAnswers := rfl
@[simp] theorem State.enter_freeCount (s : State) (target : St) : (s.enter target).freeCount = s.freeCount := rfl

/-! ## record -/

@[simp] theorem State.record_st (s : State) (x : Transaction) : (s.record x).st = s.st := rfl
@[simp] theorem State.record_hop (s : State) (x : Transaction) : (s.record x).hop = s.hop := rfl
@[simp] theorem State.record_opc (s : State) (x : Transaction) : (s.record x).opc = s.opc := rfl
@[simp] theorem State.record_addr (s : State) (x : Transaction) : (s.record x).addr = s.addr := rfl
@[simp] theorem State.record_op0 (s : State) (x : Transaction) : (s.record x).op0 = s.op0 := rfl
@[simp] theorem State.record_cnt (s : State) (x : Transaction) : (s.record x).cnt = s.cnt := rfl
@[simp] theorem State.record_buf (s : State) (x : Transaction) : (s.record x).buf = s.buf := rfl
@[simp] theorem State.record_err (s : State) (x : Transaction) : (s.record x).err = s.err := rfl
@[simp] theorem State.record_errExp (s : State) (x : Transaction) : (s.record x).errExp = s.errExp := rfl
@[simp] theorem State.record_errAct (s : State) (x : Transaction) : (s.record x).errAct = s.errAct := rfl
@[simp] theorem State.record_history (s : State) (x : Transaction) : (s.record x).history = s.history ++ [x] := rfl
@[simp] theorem State.record_port (s : State) (x : Transaction) : (s.record x).port = s.port := rfl
@[simp] theorem State.record_script (s : State) (x : Transaction) : (s.record x).script = s.script := rfl
@[simp] theorem State.record_writeAnswers (s : State) (x : Transaction) : (s.record x).writeAnswers = s.writeAnswers := rfl
@[simp] theorem State.record_readAnswers (s : State) (x : Transaction) : (s.record x).readAnswers = s.readAnswers := rfl
@[simp] theorem State.record_freeCount (s : State) (x : Transaction) : (s.record x).freeCount = s.freeCount := rfl

/-! ## latchPayload -/

@[simp] theorem State.latchPayload_st (s : State) (payload : List Byte) : (s.latchPayload payload).st = s.st := rfl
@[simp] theorem State.latchPayload_hop (s : State) (payload : List Byte) : (s.latchPayload payload).hop = s.hop := rfl
@[simp] theorem State.latchPayload_opc (s : State) (payload : List Byte) : (s.latchPayload payload).opc = s.opc := rfl
@[simp] theorem State.latchPayload_addr (s : State) (payload : List Byte) : (s.latchPayload payload).addr = s.addr := rfl
@[simp] theorem State.latchPayload_op0 (s : State) (payload : List Byte) : (s.latchPayload payload).op0 = s.op0 := rfl
@[simp] theorem State.latchPayload_cnt (s : State) (payload : List Byte) : (s.latchPayload payload).cnt = s.cnt := rfl
@[simp] theorem State.latchPayload_buf (s : State) (payload : List Byte) : (s.latchPayload payload).buf = s.buf.writeRange 0 payload := rfl
@[simp] theorem State.latchPayload_err (s : State) (payload : List Byte) : (s.latchPayload payload).err = s.err := rfl
@[simp] theorem State.latchPayload_errExp (s : State) (payload : List Byte) : (s.latchPayload payload).errExp = s.errExp := rfl
@[simp] theorem State.latchPayload_errAct (s : State) (payload : List Byte) : (s.latchPayload payload).errAct = s.errAct := rfl
@[simp] theorem State.latchPayload_history (s : State) (payload : List Byte) : (s.latchPayload payload).history = s.history := rfl
@[simp] theorem State.latchPayload_port (s : State) (payload : List Byte) : (s.latchPayload payload).port = s.port := rfl
@[simp] theorem State.latchPayload_script (s : State) (payload : List Byte) : (s.latchPayload payload).script = s.script := rfl
@[simp] theorem State.latchPayload_writeAnswers (s : State) (payload : List Byte) : (s.latchPayload payload).writeAnswers = s.writeAnswers := rfl
@[simp] theorem State.latchPayload_readAnswers (s : State) (payload : List Byte) : (s.latchPayload payload).readAnswers = s.readAnswers := rfl
@[simp] theorem State.latchPayload_freeCount (s : State) (payload : List Byte) : (s.latchPayload payload).freeCount = s.freeCount := rfl

/-! ## latch -/

@[simp] theorem State.latch_st (s : State) (h : BitVec 2) (o : Byte) (a : Addr) (p : Byte) : (s.latch h o a p).st = s.st := rfl
@[simp] theorem State.latch_hop (s : State) (h : BitVec 2) (o : Byte) (a : Addr) (p : Byte) : (s.latch h o a p).hop = h := rfl
@[simp] theorem State.latch_opc (s : State) (h : BitVec 2) (o : Byte) (a : Addr) (p : Byte) : (s.latch h o a p).opc = latchedOpcode h o := rfl
@[simp] theorem State.latch_addr (s : State) (h : BitVec 2) (o : Byte) (a : Addr) (p : Byte) : (s.latch h o a p).addr = a := rfl
@[simp] theorem State.latch_op0 (s : State) (h : BitVec 2) (o : Byte) (a : Addr) (p : Byte) : (s.latch h o a p).op0 = p := rfl
@[simp] theorem State.latch_cnt (s : State) (h : BitVec 2) (o : Byte) (a : Addr) (p : Byte) : (s.latch h o a p).cnt = 0 := rfl
@[simp] theorem State.latch_buf (s : State) (h : BitVec 2) (o : Byte) (a : Addr) (p : Byte) : (s.latch h o a p).buf = s.buf := rfl
@[simp] theorem State.latch_err (s : State) (h : BitVec 2) (o : Byte) (a : Addr) (p : Byte) : (s.latch h o a p).err = .noError := rfl
@[simp] theorem State.latch_errExp (s : State) (h : BitVec 2) (o : Byte) (a : Addr) (p : Byte) : (s.latch h o a p).errExp = s.errExp := rfl
@[simp] theorem State.latch_errAct (s : State) (h : BitVec 2) (o : Byte) (a : Addr) (p : Byte) : (s.latch h o a p).errAct = s.errAct := rfl
@[simp] theorem State.latch_history (s : State) (h : BitVec 2) (o : Byte) (a : Addr) (p : Byte) : (s.latch h o a p).history = s.history := rfl
@[simp] theorem State.latch_port (s : State) (h : BitVec 2) (o : Byte) (a : Addr) (p : Byte) : (s.latch h o a p).port = s.port := rfl
@[simp] theorem State.latch_script (s : State) (h : BitVec 2) (o : Byte) (a : Addr) (p : Byte) : (s.latch h o a p).script = s.script := rfl
@[simp] theorem State.latch_writeAnswers (s : State) (h : BitVec 2) (o : Byte) (a : Addr) (p : Byte) : (s.latch h o a p).writeAnswers = s.writeAnswers := rfl
@[simp] theorem State.latch_readAnswers (s : State) (h : BitVec 2) (o : Byte) (a : Addr) (p : Byte) : (s.latch h o a p).readAnswers = s.readAnswers := rfl
@[simp] theorem State.latch_freeCount (s : State) (h : BitVec 2) (o : Byte) (a : Addr) (p : Byte) : (s.latch h o a p).freeCount = s.freeCount := rfl

/-! ## storeReceived -/

@[simp] theorem State.storeReceived_st (s : State) (bytes : List Byte) : (s.storeReceived bytes).st = s.st := rfl
@[simp] theorem State.storeReceived_hop (s : State) (bytes : List Byte) : (s.storeReceived bytes).hop = s.hop := rfl
@[simp] theorem State.storeReceived_opc (s : State) (bytes : List Byte) : (s.storeReceived bytes).opc = s.opc := rfl
@[simp] theorem State.storeReceived_addr (s : State) (bytes : List Byte) : (s.storeReceived bytes).addr = s.addr := rfl
@[simp] theorem State.storeReceived_op0 (s : State) (bytes : List Byte) : (s.storeReceived bytes).op0 = s.op0 := rfl
@[simp] theorem State.storeReceived_cnt (s : State) (bytes : List Byte) : (s.storeReceived bytes).cnt = s.cnt + BitVec.ofNat 8 bytes.length := rfl
@[simp] theorem State.storeReceived_buf (s : State) (bytes : List Byte) : (s.storeReceived bytes).buf = s.buf.writeRange s.cnt.toNat bytes := rfl
@[simp] theorem State.storeReceived_err (s : State) (bytes : List Byte) : (s.storeReceived bytes).err = s.err := rfl
@[simp] theorem State.storeReceived_errExp (s : State) (bytes : List Byte) : (s.storeReceived bytes).errExp = s.errExp := rfl
@[simp] theorem State.storeReceived_errAct (s : State) (bytes : List Byte) : (s.storeReceived bytes).errAct = s.errAct := rfl
@[simp] theorem State.storeReceived_history (s : State) (bytes : List Byte) : (s.storeReceived bytes).history = s.history := rfl
@[simp] theorem State.storeReceived_port (s : State) (bytes : List Byte) : (s.storeReceived bytes).port = s.port := rfl
@[simp] theorem State.storeReceived_script (s : State) (bytes : List Byte) : (s.storeReceived bytes).script = s.script := rfl
@[simp] theorem State.storeReceived_writeAnswers (s : State) (bytes : List Byte) : (s.storeReceived bytes).writeAnswers = s.writeAnswers := rfl
@[simp] theorem State.storeReceived_readAnswers (s : State) (bytes : List Byte) : (s.storeReceived bytes).readAnswers = s.readAnswers := rfl
@[simp] theorem State.storeReceived_freeCount (s : State) (bytes : List Byte) : (s.storeReceived bytes).freeCount = s.freeCount := rfl

/-! ## raise -/

@[simp] theorem State.raise_st (s : State) (e : Error) : (s.raise e).st = .failed := rfl
@[simp] theorem State.raise_hop (s : State) (e : Error) : (s.raise e).hop = s.hop := rfl
@[simp] theorem State.raise_opc (s : State) (e : Error) : (s.raise e).opc = s.opc := rfl
@[simp] theorem State.raise_addr (s : State) (e : Error) : (s.raise e).addr = s.addr := rfl
@[simp] theorem State.raise_op0 (s : State) (e : Error) : (s.raise e).op0 = s.op0 := rfl
@[simp] theorem State.raise_cnt (s : State) (e : Error) : (s.raise e).cnt = s.cnt := rfl
@[simp] theorem State.raise_buf (s : State) (e : Error) : (s.raise e).buf = s.buf := rfl
@[simp] theorem State.raise_err (s : State) (e : Error) : (s.raise e).err = e.kind := rfl
@[simp] theorem State.raise_errExp (s : State) (e : Error) : (s.raise e).errExp = match e with | .handshake expected _ => expected | _ => s.errExp := rfl
@[simp] theorem State.raise_errAct (s : State) (e : Error) : (s.raise e).errAct = match e with | .handshake _ actual => actual | _ => s.errAct := rfl
@[simp] theorem State.raise_history (s : State) (e : Error) : (s.raise e).history = s.history := rfl
@[simp] theorem State.raise_port (s : State) (e : Error) : (s.raise e).port = s.port := rfl
@[simp] theorem State.raise_script (s : State) (e : Error) : (s.raise e).script = s.script := rfl
@[simp] theorem State.raise_writeAnswers (s : State) (e : Error) : (s.raise e).writeAnswers = s.writeAnswers := rfl
@[simp] theorem State.raise_readAnswers (s : State) (e : Error) : (s.raise e).readAnswers = s.readAnswers := rfl
@[simp] theorem State.raise_freeCount (s : State) (e : Error) : (s.raise e).freeCount = s.freeCount := rfl

/-! ## afterWrite -/

@[simp] theorem State.afterWrite_st (s : State) : s.afterWrite.st = s.st := by
  unfold State.afterWrite; split <;> rfl
@[simp] theorem State.afterWrite_hop (s : State) : s.afterWrite.hop = s.hop := by
  unfold State.afterWrite; split <;> rfl
@[simp] theorem State.afterWrite_opc (s : State) : s.afterWrite.opc = s.opc := by
  unfold State.afterWrite; split <;> rfl
@[simp] theorem State.afterWrite_addr (s : State) : s.afterWrite.addr = s.addr := by
  unfold State.afterWrite; split <;> rfl
@[simp] theorem State.afterWrite_op0 (s : State) : s.afterWrite.op0 = s.op0 := by
  unfold State.afterWrite; split <;> rfl
@[simp] theorem State.afterWrite_cnt (s : State) : s.afterWrite.cnt = s.cnt := by
  unfold State.afterWrite; split <;> rfl
@[simp] theorem State.afterWrite_buf (s : State) : s.afterWrite.buf = s.buf := by
  unfold State.afterWrite; split <;> rfl
@[simp] theorem State.afterWrite_err (s : State) : s.afterWrite.err = s.err := by
  unfold State.afterWrite; split <;> rfl
@[simp] theorem State.afterWrite_errExp (s : State) : s.afterWrite.errExp = s.errExp := by
  unfold State.afterWrite; split <;> rfl
@[simp] theorem State.afterWrite_errAct (s : State) : s.afterWrite.errAct = s.errAct := by
  unfold State.afterWrite; split <;> rfl
@[simp] theorem State.afterWrite_history (s : State) : s.afterWrite.history = s.history := by
  unfold State.afterWrite; split <;> rfl
@[simp] theorem State.afterWrite_port (s : State) : s.afterWrite.port = s.port := by
  unfold State.afterWrite; split <;> rfl
@[simp] theorem State.afterWrite_script (s : State) : s.afterWrite.script = s.script := by
  unfold State.afterWrite; split <;> rfl
@[simp] theorem State.afterWrite_writeAnswers (s : State) : s.afterWrite.writeAnswers = s.writeAnswers.tail := by
  unfold State.afterWrite; split <;> simp [*]
@[simp] theorem State.afterWrite_readAnswers (s : State) : s.afterWrite.readAnswers = s.readAnswers := by
  unfold State.afterWrite; split <;> rfl
@[simp] theorem State.afterWrite_freeCount (s : State) : s.afterWrite.freeCount = if s.writeAnswers = [] then s.freeCount + 1 else s.freeCount := by
  unfold State.afterWrite; split <;> simp [*]

/-! ## afterRead -/

@[simp] theorem State.afterRead_st (s : State) : s.afterRead.st = s.st := by
  unfold State.afterRead; split <;> rfl
@[simp] theorem State.afterRead_hop (s : State) : s.afterRead.hop = s.hop := by
  unfold State.afterRead; split <;> rfl
@[simp] theorem State.afterRead_opc (s : State) : s.afterRead.opc = s.opc := by
  unfold State.afterRead; split <;> rfl
@[simp] theorem State.afterRead_addr (s : State) : s.afterRead.addr = s.addr := by
  unfold State.afterRead; split <;> rfl
@[simp] theorem State.afterRead_op0 (s : State) : s.afterRead.op0 = s.op0 := by
  unfold State.afterRead; split <;> rfl
@[simp] theorem State.afterRead_cnt (s : State) : s.afterRead.cnt = s.cnt := by
  unfold State.afterRead; split <;> rfl
@[simp] theorem State.afterRead_buf (s : State) : s.afterRead.buf = s.buf := by
  unfold State.afterRead; split <;> rfl
@[simp] theorem State.afterRead_err (s : State) : s.afterRead.err = s.err := by
  unfold State.afterRead; split <;> rfl
@[simp] theorem State.afterRead_errExp (s : State) : s.afterRead.errExp = s.errExp := by
  unfold State.afterRead; split <;> rfl
@[simp] theorem State.afterRead_errAct (s : State) : s.afterRead.errAct = s.errAct := by
  unfold State.afterRead; split <;> rfl
@[simp] theorem State.afterRead_history (s : State) : s.afterRead.history = s.history := by
  unfold State.afterRead; split <;> rfl
@[simp] theorem State.afterRead_port (s : State) : s.afterRead.port = s.port := by
  unfold State.afterRead; split <;> rfl
@[simp] theorem State.afterRead_script (s : State) : s.afterRead.script = s.script := by
  unfold State.afterRead; split <;> rfl
@[simp] theorem State.afterRead_writeAnswers (s : State) : s.afterRead.writeAnswers = s.writeAnswers := by
  unfold State.afterRead; split <;> rfl
@[simp] theorem State.afterRead_readAnswers (s : State) : s.afterRead.readAnswers = s.readAnswers.tail := by
  unfold State.afterRead; split <;> simp [*]
@[simp] theorem State.afterRead_freeCount (s : State) : s.afterRead.freeCount = if s.readAnswers = [] then s.freeCount + 1 else s.freeCount := by
  unfold State.afterRead; split <;> simp [*]

/-! ## sample -/

@[simp] theorem State.sample_st (s : State) : s.sample.st = s.st := by
  unfold State.sample; split <;> rfl
@[simp] theorem State.sample_hop (s : State) : s.sample.hop = s.hop := by
  unfold State.sample; split <;> rfl
@[simp] theorem State.sample_opc (s : State) : s.sample.opc = s.opc := by
  unfold State.sample; split <;> rfl
@[simp] theorem State.sample_addr (s : State) : s.sample.addr = s.addr := by
  unfold State.sample; split <;> rfl
@[simp] theorem State.sample_op0 (s : State) : s.sample.op0 = s.op0 := by
  unfold State.sample; split <;> rfl
@[simp] theorem State.sample_cnt (s : State) : s.sample.cnt = s.cnt := by
  unfold State.sample; split <;> rfl
@[simp] theorem State.sample_buf (s : State) : s.sample.buf = s.buf := by
  unfold State.sample; split <;> rfl
@[simp] theorem State.sample_err (s : State) : s.sample.err = s.err := by
  unfold State.sample; split <;> rfl
@[simp] theorem State.sample_errExp (s : State) : s.sample.errExp = s.errExp := by
  unfold State.sample; split <;> rfl
@[simp] theorem State.sample_errAct (s : State) : s.sample.errAct = s.errAct := by
  unfold State.sample; split <;> rfl
@[simp] theorem State.sample_history (s : State) : s.sample.history = s.history := by
  unfold State.sample; split <;> rfl
theorem State.sample_port (s : State) : s.sample.port = s.script.headD HostPort.quiet := by
  unfold State.sample; split <;> simp [*]
theorem State.sample_script (s : State) : s.sample.script = s.script.tail := by
  unfold State.sample; split <;> simp [*]
@[simp] theorem State.sample_writeAnswers (s : State) : s.sample.writeAnswers = s.writeAnswers := by
  unfold State.sample; split <;> rfl
@[simp] theorem State.sample_readAnswers (s : State) : s.sample.readAnswers = s.readAnswers := by
  unfold State.sample; split <;> rfl
@[simp] theorem State.sample_freeCount (s : State) : s.sample.freeCount = s.freeCount := by
  unfold State.sample; split <;> rfl

/-! ## The channel's next answers under an update -/

@[simp] theorem State.enter_writeAnswer (s : State) (target : St) (k : Nat) : (s.enter target).writeAnswer k = s.writeAnswer k := by
  simp [State.writeAnswer]
@[simp] theorem State.enter_readAnswer (s : State) (target : St) (k : Nat) : (s.enter target).readAnswer k = s.readAnswer k := by
  simp [State.readAnswer]
@[simp] theorem State.record_writeAnswer (s : State) (x : Transaction) (k : Nat) : (s.record x).writeAnswer k = s.writeAnswer k := by
  simp [State.writeAnswer]
@[simp] theorem State.record_readAnswer (s : State) (x : Transaction) (k : Nat) : (s.record x).readAnswer k = s.readAnswer k := by
  simp [State.readAnswer]
@[simp] theorem State.latchPayload_writeAnswer (s : State) (payload : List Byte) (k : Nat) : (s.latchPayload payload).writeAnswer k = s.writeAnswer k := by
  simp [State.writeAnswer]
@[simp] theorem State.latchPayload_readAnswer (s : State) (payload : List Byte) (k : Nat) : (s.latchPayload payload).readAnswer k = s.readAnswer k := by
  simp [State.readAnswer]
@[simp] theorem State.latch_writeAnswer (s : State) (h : BitVec 2) (o : Byte) (a : Addr) (p : Byte) (k : Nat) : (s.latch h o a p).writeAnswer k = s.writeAnswer k := by
  simp [State.writeAnswer]
@[simp] theorem State.latch_readAnswer (s : State) (h : BitVec 2) (o : Byte) (a : Addr) (p : Byte) (k : Nat) : (s.latch h o a p).readAnswer k = s.readAnswer k := by
  simp [State.readAnswer]
@[simp] theorem State.storeReceived_writeAnswer (s : State) (bytes : List Byte) (k : Nat) : (s.storeReceived bytes).writeAnswer k = s.writeAnswer k := by
  simp [State.writeAnswer]
@[simp] theorem State.storeReceived_readAnswer (s : State) (bytes : List Byte) (k : Nat) : (s.storeReceived bytes).readAnswer k = s.readAnswer k := by
  simp [State.readAnswer]
@[simp] theorem State.raise_writeAnswer (s : State) (e : Error) (k : Nat) : (s.raise e).writeAnswer k = s.writeAnswer k := by
  simp [State.writeAnswer]
@[simp] theorem State.raise_readAnswer (s : State) (e : Error) (k : Nat) : (s.raise e).readAnswer k = s.readAnswer k := by
  simp [State.readAnswer]
@[simp] theorem State.sample_writeAnswer (s : State) (k : Nat) : s.sample.writeAnswer k = s.writeAnswer k := by
  simp [State.writeAnswer]
@[simp] theorem State.sample_readAnswer (s : State) (k : Nat) : s.sample.readAnswer k = s.readAnswer k := by
  simp [State.readAnswer]

/-! ## The outputs -/

@[simp] theorem State.enter_self (s : State) (target other : St) : (s.enter target).enter other = s.enter other := rfl

theorem State.busy_eq (s : State) : s.busy = s.st.busy := rfl

@[simp] theorem State.missing_enter (s : State) (target : St) : (s.enter target).missing = s.missing := rfl

@[simp] theorem State.payloadBytes_enter (s : State) (target : St) : (s.enter target).payloadBytes = s.payloadBytes := rfl

end Sys2Proof.Machine
end

