-- ==== Sys2Proof/Laws/Ops.lean ====
section
/-! SUPPORT. For each shared operation, what it can answer, said once. -/

namespace Sys2Proof.Machine

open Sys2Proof

/-! ## The channel -/

/-- The outcome of a transaction by its answer: refused when the answer is outside the domain of R60. -/
def onAnswer {α : Type} (answer : Option α) (k : α → State) : Host.Outcome State Fault Refusal :=
  match answer with
  | none => .refused .answerOutsideDomain
  | some a => .next (k a)

@[simp] theorem onAnswer_none {α : Type} (k : α → State) : onAnswer none k = .refused .answerOutsideDomain := rfl

@[simp] theorem onAnswer_some {α : Type} (a : α) (k : α → State) : onAnswer (some a) k = .next (k a) := rfl

theorem onAnswer_next {α : Type} {answer : Option α} {k : α → State} {t : State} (h : onAnswer answer k = .next t) :
    ∃ a, answer = some a ∧ t = k a := by
  cases answer with
  | none => cases h
  | some a => cases h; exact ⟨a, rfl, rfl⟩

theorem onAnswer_refused {α : Type} {answer : Option α} {k : α → State} {r : Refusal}
    (h : onAnswer answer k = .refused r) : answer = none ∧ r = .answerOutsideDomain := by
  cases answer with
  | none => cases h; exact ⟨rfl, rfl⟩
  | some a => cases h

/-- Every answer to a `ChanWrite` is in the domain of R60. -/
theorem State.writeAnswer_le {s : State} {k : Nat} {a : WriteAnswer} (h : s.writeAnswer k = some a) : a.count ≤ k := by
  unfold State.writeAnswer at h
  split at h
  · cases h
    exact Nat.min_le_right _ _
  · split at h
    · cases h
      assumption
    · cases h

/-- Every answer to a `ChanRead` is in the domain of R60. -/
theorem State.readAnswer_le {s : State} {k : Nat} {a : ReadAnswer} (h : s.readAnswer k = some a) :
    a.bytes.length ≤ k := by
  unfold State.readAnswer at h
  split at h
  · cases h
    simp
  · split at h
    · cases h
      assumption
    · cases h

/-- `ChanWrite`: the answer, and the state with the channel gone on and the transaction recorded. -/
theorem State.chanWrite_eq (s : State) (data : List Byte) :
    s.chanWrite data = (s.writeAnswer data.length).map fun a => (a, s.afterWrite.record (.write data a)) := by
  unfold State.chanWrite
  split <;> simp [*]

/-- `ChanRead`: the answer, and the state with the channel gone on and the transaction recorded. -/
theorem State.chanRead_eq (s : State) (k : Nat) :
    s.chanRead k = (s.readAnswer k).map fun a => (a, s.afterRead.record (.read k a)) := by
  unfold State.chanRead
  split <;> simp [*]

/-- `WriteAll` stops only on an answer outside the domain, and then makes no transaction. -/
theorem State.writeAll_eq (s : State) (data : List Byte) (target : St) :
    s.writeAll data target =
      onAnswer (s.writeAnswer data.length) fun a =>
        (s.afterWrite.record (.write data a)).afterWriteAll a data.length target := by
  unfold State.writeAll
  rw [State.chanWrite_eq]
  cases s.writeAnswer data.length <;> rfl

/-- If `WriteAll` answers a next state, it made one transaction and ended by its answer. -/
theorem State.writeAll_next {s t : State} {data : List Byte} {target : St} (h : s.writeAll data target = .next t) :
    ∃ a, s.writeAnswer data.length = some a ∧
      t = (s.afterWrite.record (.write data a)).afterWriteAll a data.length target := by
  rw [State.writeAll_eq] at h
  exact onAnswer_next h

/-- The three ends of `WriteAll` (R118). -/
theorem State.afterWriteAll_cases (s : State) (a : WriteAnswer) (k : Nat) (target : St) :
    (a.error = true ∧ s.afterWriteAll a k target = s.raise .transport) ∨
    (a.error = false ∧ a.count < k ∧ s.afterWriteAll a k target = s.raise .shortWrite) ∨
    (a.error = false ∧ k ≤ a.count ∧ s.afterWriteAll a k target = s.enter target) := by
  unfold State.afterWriteAll
  cases a.error
  · by_cases h : a.count < k
    · exact .inr (.inl ⟨rfl, h, by simp [h]⟩)
    · exact .inr (.inr ⟨rfl, by omega, by simp [h]⟩)
  · exact .inl ⟨rfl, by simp⟩

/-! ## The handshake byte -/

/-- The two ends of the comparison (R114). -/
theorem State.compareByte_cases (s : State) (expected actual : Byte) (target : St) :
    (actual = expected ∧ s.compareByte expected actual target = s.enter target) ∨
    (actual ≠ expected ∧ s.compareByte expected actual target = s.raise (.handshake expected actual)) := by
  unfold State.compareByte
  by_cases h : actual = expected <;> simp [h]

theorem State.receiveByte_ackAwaited {s : State} (h : s.st = .ackAwaited) (b : Byte) :
    s.receiveByte b = s.compareByte ackValue b .ackReceived := by
  simp [State.receiveByte, h]

theorem State.receiveByte_completionAwaited {s : State} (h : s.st = .completionAwaited) (b : Byte) :
    s.receiveByte b = s.compareByte successValue b .done := by
  simp [State.receiveByte, h]

/-- How a handshake read ends on its answer (R114, R188): the error flag, then no byte, then the byte. -/
def State.afterMarker (s : State) (a : ReadAnswer) : State :=
  if a.error then s.raise .transport
  else
    match a.bytes with
    | [] => s.raise .readTimeout
    | b :: _ => s.receiveByte b

/-! ## The payload read -/

/-- The three ends of a payload read (R158). -/
theorem State.afterPayloadRead_cases (s : State) (a : ReadAnswer) :
    (a.error = true ∧ s.afterPayloadRead a = s.raise .transport) ∨
    (a.error = false ∧ a.bytes = [] ∧ s.afterPayloadRead a = s.raise .readTimeout) ∨
    (a.error = false ∧ a.bytes ≠ [] ∧ s.afterPayloadRead a = s.storeReceived a.bytes) := by
  unfold State.afterPayloadRead
  cases a.error
  · by_cases h : a.bytes = [] <;> simp [h]
  · simp

/-- A payload read stops only on an answer outside the domain. -/
theorem State.payloadRead_eq (s : State) :
    s.payloadRead =
      onAnswer (s.readAnswer s.missing) fun a =>
        (s.afterRead.record (.read s.missing a)).afterPayloadRead a := by
  unfold State.payloadRead
  rw [State.chanRead_eq]
  cases s.readAnswer s.missing <;> rfl

/-- `cnt + |bs|` does not overflow when `|bs| <= op0 - cnt` (R106). -/
theorem State.storeReceived_cnt_toNat {s : State} {bytes : List Byte} (h : s.cnt ≤ s.op0)
    (hb : bytes.length ≤ s.missing) : (s.storeReceived bytes).cnt.toNat = s.cnt.toNat + bytes.length := by
  have h1 : s.cnt.toNat ≤ s.op0.toNat := h
  have h2 := s.op0.isLt
  unfold State.missing at hb
  simp only [State.storeReceived_cnt, BitVec.toNat_add, BitVec.toNat_ofNat]
  omega

/-! ## Starting an operation -/

/-- `Start` in `Idle` (R151): it stops only on an answer outside the domain. -/
theorem State.startOperation_idle {s : State} (h : s.st = .idle) (hop : BitVec 2) (o : Byte) (a : Addr) (p : Byte)
    (payload : List Byte) :
    s.startOperation hop o a p payload =
      ((s.latch hop o a p).latchPayload payload).writeAll (encodeFrame (latchedOpcode hop o) a p) .frameSent := by
  simp [State.startOperation, h, State.frame]

/-- `Start` outside `Idle` (R151): nothing changes. -/
theorem State.startOperation_busy {s : State} (h : s.st ≠ .idle) (hop : BitVec 2) (o : Byte) (a : Addr) (p : Byte)
    (payload : List Byte) : s.startOperation hop o a p payload = .next s := by
  unfold State.startOperation
  split <;> simp_all

/-! ## `raise` and `Return` -/

/-- After `raise` the state is `Failed` with an error on record (R190). -/
theorem Error.kind_ne_noError (e : Error) : e.kind ≠ .noError := by
  cases e <;> simp [Error.kind]

/-- `Return` (R167): from the two ends to `Idle`, elsewhere nothing. -/
theorem State.hostReturn_cases (s : State) :
    ((s.st = .done ∨ s.st = .failed) ∧ s.hostReturn = s.enter .idle) ∨
    (s.st ≠ .done ∧ s.st ≠ .failed ∧ s.hostReturn = s) := by
  unfold State.hostReturn
  split
  · exact .inl ⟨.inl ‹_›, rfl⟩
  · exact .inl ⟨.inr ‹_›, rfl⟩
  · exact .inr ⟨‹_›, ‹_›, rfl⟩

end Sys2Proof.Machine
end

