-- ==== Sys2Proof/Laws/PerInstr.lean ====
section
/-! SUPPORT. The family `FrameShape`: the encoding of every instruction has the size of its format and the fixed bits of its
row (R80, R84, R88, R89). -/

namespace Sys2Proof.Laws.FrameShape

open Sys2Proof

/-- A command frame has 4 bytes, begins with one of the four opcodes and begins an exchange; a handshake is one of the two
marker bytes and begins none; a selector comes with a `Start` and is not the reserved one, and its operand is the length of the payload it presents;
only an instruction that is not well formed has no encoding (R109). -/
def Statement (i : Instr) : Prop :=
  match encode i with
  | none => ¬ i.WellFormed
  | some (.frame bytes) =>
    bytes.length = Config.frameLen ∧ (∃ o ∈ [opSuccess, opWrite, opWritePage, opRead], bytes.head? = some o) ∧
      i.exchange ≠ none
  | some (.handshake bytes) =>
    bytes.length = Config.handshakeLen ∧ (bytes = [ackValue] ∨ bytes = [successValue]) ∧ i.exchange = none
  | some (.host p) =>
    p.start = true ∧ p.rst = false ∧ p.op ≠ 3#2 ∧ i.exchange = none ∧ (p.op = 1#2 → p.payload.length = p.op0.toNat)

theorem success (address : Addr) (operand0 : Byte) : Statement (.success address operand0) :=
  ⟨rfl, ⟨opSuccess, by simp, rfl⟩, by simp [Instr.exchange]⟩

theorem write (address : Addr) (operand0 : Byte) : Statement (.write address operand0) :=
  ⟨rfl, ⟨opWrite, by simp, rfl⟩, by simp [Instr.exchange]⟩

theorem writePage (address : Addr) (operand0 : Byte) : Statement (.writePage address operand0) :=
  ⟨rfl, ⟨opWritePage, by simp, rfl⟩, by simp [Instr.exchange]⟩

theorem read (address : Addr) (operand0 : Byte) : Statement (.read address operand0) :=
  ⟨rfl, ⟨opRead, by simp, rfl⟩, by simp [Instr.exchange]⟩

theorem ack : Statement .ack := ⟨rfl, .inl rfl, rfl⟩

theorem successHs : Statement .successHs := ⟨rfl, .inr rfl, rfl⟩

theorem sendCommand (opcode : Byte) (address : Addr) (operand0 : Byte) :
    Statement (.sendCommand opcode address operand0) :=
  ⟨rfl, rfl, by simp [startPort, hopSendCommand], rfl, by simp [startPort, hopSendCommand]⟩

theorem writePageOp (address : Addr) (payload : List Byte) : Statement (.writePageOp address payload) := by
  by_cases h : payload.length ≤ 255
  · simp only [Statement, encode, payloadOperand_of_le h]
    exact ⟨rfl, rfl, by simp [startPort, hopWritePage], rfl, fun _ => (payloadOperand_toNat (payloadOperand_of_le h)).symm⟩
  · simp only [Statement, encode, payloadOperand_of_gt (Nat.not_le.1 h)]
    simpa [Instr.WellFormed, Instr.wellFormed] using h

theorem readDataOp (address : Addr) (length : Byte) : Statement (.readDataOp address length) :=
  ⟨rfl, rfl, by simp [startPort, hopReadData], rfl, by simp [startPort, hopReadData]⟩

end Sys2Proof.Laws.FrameShape
end

