-- ==== Sys2Proof/Laws/Step.lean ====
section
/-! SUPPORT. What one step can do, said once: `StepKind` lists the ways a step answers a next state. -/

namespace Sys2Proof.Machine

open Sys2Proof

/-! ## Runs -/

@[simp] theorem steps_zero (s : State) : steps 0 s = .next s := rfl

theorem steps_succ (n : Nat) (s : State) :
    steps (n + 1) s = match step s with
      | .next t => steps n t
      | .fault r => .fault r
      | .refused r => .refused r := by
  generalize h : step s = o
  have h2 : Sys2Proof.core.step s = o := h
  simp only [steps, Host.Core.run, h2]
  cases o <;> rfl

/-! ## The handshake read -/

/-- The fetch of a handshake wait, once an instruction it fetches is run, is the read with the end `afterMarker` of its
answer (R114). -/
theorem State.fetchMarker_run {s : State} :
    s.fetchMarker.run =
      onAnswer (s.readAnswer 1) fun a => (s.afterRead.record (.read 1 a)).afterMarker a := by
  unfold State.fetchMarker
  rw [State.chanRead_eq, show Config.handshakeLen = 1 from rfl]
  cases s.readAnswer 1 with
  | none => rfl
  | some a =>
    obtain ⟨bytes, error⟩ := a
    cases error
    · cases bytes with
      | nil => rfl
      | cons b bs =>
        simp only [Option.map_some, State.afterMarker, Bool.false_eq_true, if_false]
        rcases decodeHs_cases b with ⟨rfl, e⟩ | ⟨rfl, e⟩ | ⟨-, -, e⟩ <;> rw [e] <;> rfl
    · rfl

/-! ## Starting -/

/-- Every instruction that is a `Start` is `startOperation` of what it latches. -/
theorem exec_start {i : Instr} {s : State} {f : StartFields} (h : i.startFields s = some f) :
    exec i s = s.startOperation f.hop f.opc f.addr f.op0 f.payload ∧ latchedOpcode f.hop f.opc = f.opc := by
  cases i with
  | ack => cases h
  | successHs => cases h
  | writePage a p =>
    simp only [Instr.startFields] at h
    split at h
    · cases h
      exact ⟨by simp [exec, execWritePage, *, hopWritePage, opWritePage], rfl⟩
    · cases h
  | writePageOp a payload =>
    simp only [Instr.startFields] at h
    split at h
    · cases h
      exact ⟨by simp [exec, execWritePageOp, payloadOperand_of_le, *, hopWritePage, opWritePage], rfl⟩
    · cases h
  | _ => cases h; exact ⟨rfl, rfl⟩

/-- `Start` in `Idle`: latch, one write of the frame, and the end of `WriteAll` (R151). -/
theorem exec_start_idle {i : Instr} {s : State} {f : StartFields} (h : i.startFields s = some f) (hs : s.st = .idle) :
    exec i s =
      onAnswer (s.writeAnswer 4) fun a =>
        ((f.latched s).afterWrite.record (.write f.frame a)).afterWriteAll a 4 .frameSent := by
  obtain ⟨e, ho⟩ := exec_start h
  rw [e, State.startOperation_idle hs, ho, State.writeAll_eq]
  have e2 : (s.latch f.hop f.opc f.addr f.op0).latchPayload f.payload = f.latched s := by
    simp [State.latch, State.latchPayload, StartFields.latched, ho]
  have e3 : (f.latched s).writeAnswer 4 = s.writeAnswer 4 := rfl
  rw [e2, show (encodeFrame f.opc f.addr f.op0).length = 4 from rfl, e3]
  rfl

/-- The instruction a port presents latches something: its payload can be presented, or it is refused when it runs. -/
theorem decodePort_startFields {s : State} {i : Instr} (h : decodePort s.port = .ok i) :
    (∃ f, i.startFields s = some f) ∨ exec i s = .refused .payloadLengthMismatch := by
  rcases decodePort_cases h with h | ⟨-, -, rfl⟩ | ⟨-, -, rfl⟩ | ⟨-, rfl⟩ | ⟨-, rfl⟩
  · rcases decodeHop_cases h with ⟨-, rfl⟩ | ⟨-, hl, rfl⟩ | ⟨-, rfl⟩
    · exact .inl ⟨_, rfl⟩
    · have := s.port.op0.isLt
      have hl : s.port.payload.length ≤ 255 := by omega
      exact .inl ⟨_, by simp only [Instr.startFields, hl, if_true]; rfl⟩
    · exact .inl ⟨_, rfl⟩
  · exact .inl ⟨_, rfl⟩
  · exact .inl ⟨_, rfl⟩
  · by_cases hl : s.port.payload.length = s.port.op0.toNat
    · exact .inl ⟨_, by simp only [Instr.startFields, hl, if_true]; rfl⟩
    · exact .inr (by simp [exec, execWritePage, hl])
  · exact .inl ⟨_, rfl⟩

/-! ## One step -/

/-- The ways a step answers a next state; `u` is the state with the host's signals sampled. -/
inductive StepKind (u : State) : State → Prop
  | reset (r : u.port.rst = true) : StepKind u u.resetEvent
  | wait (r : u.port.rst = false) (h : u.st = .idle ∨ u.st = .done ∨ u.st = .failed) : StepKind u u
  | start (r : u.port.rst = false) (h : u.st = .idle) (q : u.port.start = true) (i : Instr)
      (d : decodePort u.port = .ok i) (f : StartFields) (l : i.startFields u = some f) (a : WriteAnswer)
      (w : u.writeAnswer 4 = some a) :
      StepKind u (((f.latched u).afterWrite.record (.write f.frame a)).afterWriteAll a 4 .frameSent)
  | turnToRead (r : u.port.rst = false) (h : u.st = .frameSent) : StepKind u (u.enter .ackAwaited)
  | marker (r : u.port.rst = false) (h : u.st = .ackAwaited ∨ u.st = .completionAwaited) (a : ReadAnswer)
      (w : u.readAnswer 1 = some a) : StepKind u ((u.afterRead.record (.read 1 a)).afterMarker a)
  | commandDone (r : u.port.rst = false) (h : u.st = .ackReceived) (o : u.hop = hopSendCommand) :
      StepKind u (u.enter .done)
  | payloadWrite (r : u.port.rst = false) (h : u.st = .ackReceived) (o : u.hop = hopWritePage) (a : WriteAnswer)
      (w : u.writeAnswer u.len = some a) :
      StepKind u ((u.afterWrite.record (.write u.payloadBytes a)).afterWriteAll a u.len .payloadTransferred)
  | payloadRead (r : u.port.rst = false) (h : u.st = .ackReceived) (o : u.hop = hopReadData) (c : u.cnt < u.op0)
      (a : ReadAnswer) (w : u.readAnswer u.missing = some a) :
      StepKind u ((u.afterRead.record (.read u.missing a)).afterPayloadRead a)
  | payloadDone (r : u.port.rst = false) (h : u.st = .ackReceived) (o : u.hop = hopReadData) (c : u.cnt = u.op0) :
      StepKind u (u.enter .payloadTransferred)
  | turnToCompletion (r : u.port.rst = false) (h : u.st = .payloadTransferred) :
      StepKind u (u.enter .completionAwaited)
  | hostReturn (r : u.port.rst = false) (h : u.st = .done ∨ u.st = .failed) (q : u.port.ret = true) :
      StepKind u (u.enter .idle)

theorem State.payloadBytes_length (s : State) : s.payloadBytes.length = s.len := by simp [State.payloadBytes]

/-- What the step out of `AckReceived` can answer. -/
theorem StepKind.of_payloadPhase {u t : State} (r : u.port.rst = false) (hs : u.st = .ackReceived)
    (h : u.payloadPhase = .next t) : StepKind u t := by
  unfold State.payloadPhase at h
  split at h
  · cases h
    exact .commandDone r hs ‹_›
  · split at h
    · rw [State.payloadWrite] at h
      obtain ⟨a, w, rfl⟩ := State.writeAll_next h
      rw [State.payloadBytes_length] at *
      exact .payloadWrite r hs ‹_› a w
    · split at h
      · split at h
        · rw [State.payloadRead_eq] at h
          obtain ⟨a, w, rfl⟩ := onAnswer_next h
          exact .payloadRead r hs ‹_› ‹_› a w
        · split at h
          · cases h
            exact .payloadDone r hs ‹_› ‹_›
          · cases h
      · cases h

/-- What a step in `Idle` can answer. -/
theorem StepKind.of_fetchStart {u t : State} (r : u.port.rst = false) (hs : u.st = .idle)
    (h : u.fetchStart.run = .next t) : StepKind u t := by
  unfold State.fetchStart at h
  by_cases q : u.port.start = true
  · rw [if_pos q] at h
    split at h
    · rename_i i hi
      have h : exec i u = .next t := h
      rcases decodePort_startFields hi with ⟨f, hf⟩ | e
      · rw [exec_start_idle hf hs] at h
        obtain ⟨a, w, rfl⟩ := onAnswer_next h
        exact .start r hs q i hi f hf a w
      · rw [e] at h
        cases h
    · cases h
    · cases h
      exact .wait r (.inl hs)
  · rw [if_neg q] at h
    cases h
    exact .wait r (.inl hs)

/-- What a step in `Done` or `Failed` can answer. -/
theorem StepKind.of_awaitReturn {u : State} (r : u.port.rst = false) (hs : u.st = .done ∨ u.st = .failed) :
    StepKind u u.awaitReturn := by
  unfold State.awaitReturn
  split
  · rcases State.hostReturn_cases u with ⟨-, e⟩ | ⟨h1, h2, -⟩
    · rw [e]
      exact .hostReturn r hs ‹_›
    · rcases hs with hs | hs
      · exact absurd hs h1
      · exact absurd hs h2
  · exact .wait r (.inr hs)

/-- Everything a step can answer as a next state. -/
theorem step_kind {s t : State} (h : step s = .next t) : StepKind s.sample t := by
  unfold step at h
  generalize s.sample = u at *
  unfold State.fetch at h
  cases r : u.port.rst
  · rw [if_neg (by simp [r])] at h
    split at h
    · exact .of_fetchStart r ‹_› h
    · cases h
      exact .turnToRead r ‹_›
    · rw [State.fetchMarker_run] at h
      obtain ⟨a, w, rfl⟩ := onAnswer_next h
      exact .marker r (.inl ‹_›) a w
    · exact .of_payloadPhase r ‹_› h
    · cases h
      exact .turnToCompletion r ‹_›
    · rw [State.fetchMarker_run] at h
      obtain ⟨a, w, rfl⟩ := onAnswer_next h
      exact .marker r (.inr ‹_›) a w
    · cases h
      exact .of_awaitReturn r (.inl ‹_›)
    · cases h
      exact .of_awaitReturn r (.inr ‹_›)
  · rw [if_pos r] at h
    cases h
    exact .reset r

/-! ## Stopping for want of an answer -/

/-- A step stops for want of an answer only where the transport does not answer its transaction (R229). -/
theorem step_refused_unanswered {s : State} (h : step s = .refused .answerOutsideDomain) :
    s.transactionAnswered = false := by
  unfold State.transactionAnswered
  unfold step at h
  generalize s.sample = u at *
  suffices H : ∃ r, u.request = some r ∧ u.answers r = false by
    obtain ⟨r, e, f⟩ := H
    simp [e, f]
  unfold State.fetch at h
  cases r : u.port.rst
  · rw [if_neg (by simp [r])] at h
    split at h
    · rename_i hs
      unfold State.fetchStart at h
      by_cases q : u.port.start = true
      · rw [if_pos q] at h
        split at h
        · rename_i i hi
          have h : exec i u = .refused .answerOutsideDomain := h
          rcases decodePort_startFields hi with ⟨f, hf⟩ | e
          · rw [exec_start_idle hf hs] at h
            exact ⟨.write 4, by simp [State.request, r, hs, q, hi, hf],
              by simp [State.answers, (onAnswer_refused h).1]⟩
          · rw [e] at h
            cases h
        · cases h
        · cases h
      · rw [if_neg q] at h
        cases h
    · cases h
    · rename_i hs
      rw [State.fetchMarker_run] at h
      exact ⟨.read 1, by simp [State.request, r, hs], by simp [State.answers, (onAnswer_refused h).1]⟩
    · rename_i hs
      have h : u.payloadPhase = .refused .answerOutsideDomain := h
      unfold State.payloadPhase at h
      split at h
      · cases h
      · split at h
        · rw [State.payloadWrite, State.writeAll_eq, State.payloadBytes_length] at h
          exact ⟨.write u.len, by simp [State.request, *], by simp [State.answers, (onAnswer_refused h).1]⟩
        · split at h
          · split at h
            · rw [State.payloadRead_eq] at h
              exact ⟨.read u.missing, by simp_all [State.request, hopReadData, hopWritePage],
                by simp [State.answers, (onAnswer_refused h).1]⟩
            · split at h <;> cases h
          · cases h
    · cases h
    · rename_i hs
      rw [State.fetchMarker_run] at h
      exact ⟨.read 1, by simp [State.request, r, hs], by simp [State.answers, (onAnswer_refused h).1]⟩
    · cases h
    · cases h
  · rw [if_pos r] at h
    cases h

/-- A run stops for want of an answer only on a transport that does not meet the premise of R229. -/
theorem steps_refused_not_answered {n : Nat} {s : State} (h : steps n s = .refused .answerOutsideDomain) :
    ¬ s.TransportAnswers n := by
  induction n generalizing s with
  | zero => cases h
  | succ n ih =>
    intro hp
    rw [steps_succ] at h
    split at h
    · rename_i t e
      refine ih h fun k hk => ?_
      have := hp (k + 1) (by omega)
      rw [steps_succ, e] at this
      exact this
    · cases h
    · rename_i r e
      cases h
      have := hp 0 (by omega)
      simp [answeredAfter, step_refused_unanswered e] at this

/-- In a busy state a step refuses nothing but a missing answer (R165). -/
theorem step_refused_of_busy {s : State} {r : Refusal} (hb : s.busy = true) (h : step s = .refused r) :
    r = .answerOutsideDomain := by
  have hb : s.sample.busy = true := by unfold State.sample; split <;> exact hb
  unfold step at h
  generalize s.sample = u at *
  unfold State.fetch at h
  split at h
  · cases h
  · split at h
    · rename_i hs; simp [State.busy, hs, St.busy] at hb
    · cases h
    · rw [State.fetchMarker_run] at h; exact (onAnswer_refused h).2
    · have h : u.payloadPhase = .refused r := h
      unfold State.payloadPhase at h
      split at h
      · cases h
      · split at h
        · rw [State.payloadWrite, State.writeAll_eq] at h
          exact (onAnswer_refused h).2
        · split at h
          · split at h
            · rw [State.payloadRead_eq] at h
              exact (onAnswer_refused h).2
            · split at h <;> cases h
          · cases h
    · cases h
    · rw [State.fetchMarker_run] at h; exact (onAnswer_refused h).2
    · cases h
    · cases h

end Sys2Proof.Machine
end

