-- ==== Sys2Proof/Tests/Slice0.lean ====
section
/-! SUPPORT. Tests: the ill-formed terms, the words of the spec, one step of each instruction (the expected values are those of
95_test_vectors.md, or written out from the rules named), and for each obligation with hypotheses a state that meets them. -/

namespace Sys2Proof.Tests

open Sys2Proof Sys2Proof.Machine

/-! ## The helpers -/

/-- In `Idle` with these signals coming and these answers to come. -/
def idleWith (q : HostPort) (ws : List WriteAnswer) (rs : List ReadAnswer) : State :=
  { State.reset with script := [q], writeAnswers := ws, readAnswers := rs }

/-- In the middle of an operation. -/
def inState (st : St) (hop : BitVec 2) (op0 cnt : Byte) (ws : List WriteAnswer) (rs : List ReadAnswer) : State :=
  { State.reset with st := st, hop := hop, op0 := op0, cnt := cnt, writeAnswers := ws, readAnswers := rs }

/-- The outcome is a next state with this property. -/
def gives (o : Host.Outcome State Fault Refusal) (P : State → Bool) : Bool :=
  match o with
  | .next t => P t
  | .fault _ => false
  | .refused _ => false

/-- The outcome is this refusal. -/
def refuses (o : Host.Outcome State Fault Refusal) (r : Refusal) : Bool :=
  match o with
  | .next _ => false
  | .fault _ => false
  | .refused q => decide (q = r)

/-- What the decoder answers, or nothing. -/
def decoded (e : Except DecodeError Instr) : Option Instr :=
  match e with
  | .ok i => some i
  | .error _ => none

def whole : WriteAnswer := ⟨4, false⟩
def wholePage : WriteAnswer := ⟨2, false⟩
def ackByte : ReadAnswer := ⟨[0xC7#8], false⟩
def doneByte : ReadAnswer := ⟨[0x00#8], false⟩

def portReset : HostPort := { HostPort.quiet with rst := true }
def portReturn : HostPort := { HostPort.quiet with ret := true }
def portSend : HostPort := { HostPort.quiet with start := true, op := 0#2, opcode := 0x03#8, addr := 0x0000#16, op0 := 2#8 }
def portPage : HostPort :=
  { HostPort.quiet with start := true, op := 1#2, addr := 0x0100#16, op0 := 2#8, payload := [0x11#8, 0x22#8] }
def portRead : HostPort := { HostPort.quiet with start := true, op := 2#2, addr := 0x0001#16, op0 := 3#8 }
def portReserved : HostPort := { HostPort.quiet with start := true, op := 3#2 }

/-- A payload of `n` bytes. -/
def page (n : Nat) : List Byte := List.replicate n 0xFF#8

theorem page_length (n : Nat) : (page n).length = n := List.length_replicate

/-! ## Ill-formed terms -/

theorem test_wf_page_of_255_bytes_accepted :
    Instr.wellFormed (.writePageOp 0#16 (page 255)) = true := by
  simp only [Instr.wellFormed, page_length]; decide

theorem test_wf_page_of_256_bytes_refused :
    Instr.wellFormed (.writePageOp 0#16 (page 256)) = false := by
  simp only [Instr.wellFormed, page_length]; decide

theorem test_wf_reserved_selector_refused : portReserved.wellFormed = false := by decide

theorem test_wf_payload_of_another_length_refused :
    portPage.wellFormed = true ∧ { portPage with op0 := 3#8 }.wellFormed = false := by decide

/-! ## The words of the spec (S1, V1 to V8; R84, R89) -/

theorem test_word_success : decodeTableWord 32 0x00000000 = some (.success 0x0000#16 0x00#8) := by decide
theorem test_word_write : decodeTableWord 32 0x01001041 = some (.write 0x0010#16 65#8) := by decide
theorem test_word_write_page : decodeTableWord 32 0x028000FF = some (.writePage 0x8000#16 255#8) := by decide
theorem test_word_read : decodeTableWord 32 0x03123400 = some (.read 0x1234#16 0#8) := by decide
theorem test_word_ack : decodeTableWord 8 199 = some .ack := by decide
theorem test_word_success_hs : decodeTableWord 8 0 = some .successHs := by decide
theorem test_word_send_command : decodeTableWord 2 0 = some (.sendCommand 0#8 0#16 0#8) := by decide
theorem test_word_write_page_op : decodeTableWord 2 1 = some (.writePageOp 0#16 []) := by decide
theorem test_word_read_data_op : decodeTableWord 2 2 = some (.readDataOp 0#16 0#8) := by decide

theorem test_words_that_are_no_row :
    decodeTableWord 32 0xC7000000 = none ∧ decodeTableWord 32 0x04000000 = none ∧ decodeTableWord 8 5 = none ∧
      decodeTableWord 2 3 = none := by decide

/-- The last two frames of S1 differ only in the order of the address bytes. -/
theorem test_frame_high_byte_first :
    encodeFrame 3#8 0x00FF#16 1#8 = [0x03#8, 0x00#8, 0xFF#8, 0x01#8] ∧
      encodeFrame 3#8 0xFF00#16 1#8 = [0x03#8, 0xFF#8, 0x00#8, 0x01#8] := by decide

/-- S1: the frame decodes to `(2, 0xABCD, 255)`. -/
theorem test_frame_decoded :
    decodeFrame [0x02#8, 0xAB#8, 0xCD#8, 0xFF#8] = some ⟨2#8, 0xABCD#16, 255#8⟩ := by decide

/-- The next step of a state made by `withFetchWord` runs the row's instruction. -/
theorem test_fetch_write :
    gives (step ({ State.reset with writeAnswers := [whole] }.withFetchWord 32 0x01001041)) (fun t =>
      t.st = .frameSent && t.hop = 0#2 && t.opc = 1#8 && t.addr = 0x0010#16 && t.op0 = 65#8) = true := by decide

theorem test_fetch_write_page :
    gives (step ({ State.reset with writeAnswers := [whole] }.withFetchWord 32 0x02000102)) (fun t =>
      t.st = .frameSent && t.hop = 1#2 && t.opc = 2#8 && t.addr = 0x0001#16 && t.op0 = 2#8) = true := by decide

theorem test_fetch_markers :
    gives (step (State.reset.withFetchWord 8 199)) (fun t => t.st = .ackReceived) = true ∧
      gives (step (State.reset.withFetchWord 8 0)) (fun t => t.st = .done) = true := by decide

/-! ## One step of each instruction -/

/-- R101: `00 aa aa pp` is sent. -/
theorem test_success_frame :
    gives (exec (.success 0x1234#16 7#8) (idleWith portSend [whole] [])) (fun t =>
      t.st = .frameSent && t.history = [.write [0x00#8, 0x12#8, 0x34#8, 0x07#8] whole]) = true := by decide

/-- V6. -/
theorem test_write_frame :
    gives (exec (.write 0x0010#16 65#8) (idleWith portSend [whole] [])) (fun t =>
      t.opc = 1#8 && t.history = [.write [0x01#8, 0x00#8, 0x10#8, 0x41#8] whole]) = true := by decide

/-- R103 with a presented payload of two bytes. -/
theorem test_write_page_frame :
    gives (exec (.writePage 0x0000#16 2#8) (idleWith portPage [whole] []).sample) (fun t =>
      t.buf = [(0, 0x11#8), (1, 0x22#8)] && t.history = [.write [0x02#8, 0x00#8, 0x00#8, 0x02#8] whole]) = true := by
  decide

/-- A short frame write (V16). -/
theorem test_write_page_short_write :
    gives (exec (.writePage 0x0000#16 2#8) (idleWith portPage [⟨3, false⟩] []).sample) (fun t =>
      t.st = .failed && t.err = .shortWrite) = true := by decide

/-- V5. -/
theorem test_read_frame :
    gives (exec (.read 0x0000#16 32#8) (idleWith portRead [whole] [])) (fun t =>
      t.hop = 2#2 && t.history = [.write [0x03#8, 0x00#8, 0x00#8, 0x20#8] whole]) = true := by decide

/-- V9, and V12 in the completion wait. -/
theorem test_ack :
    gives (exec .ack (inState .ackAwaited 0#2 0#8 0#8 [] [])) (fun t => t.st = .ackReceived) = true ∧
    gives (exec .ack (inState .completionAwaited 1#2 0#8 0#8 [] [])) (fun t =>
      t.st = .failed && t.err = .handshake && t.errExp = 0x00#8 && t.errAct = 0xC7#8) = true := by decide

/-- V10, and V14c in the acknowledgment wait. -/
theorem test_success_hs :
    gives (exec .successHs (inState .completionAwaited 1#2 0#8 0#8 [] [])) (fun t => t.st = .done) = true ∧
    gives (exec .successHs (inState .ackAwaited 1#2 0#8 0#8 [] [])) (fun t =>
      t.st = .failed && t.errExp = 199#8 && t.errAct = 0#8) = true := by decide

/-- V7: an opcode outside the enumeration is sent like any other. -/
theorem test_send_command :
    gives (exec (.sendCommand 199#8 0x0000#16 0#8) (idleWith portSend [whole] [])) (fun t =>
      t.st = .frameSent && t.history = [.write [0xC7#8, 0x00#8, 0x00#8, 0x00#8] whole]) = true := by decide

/-- V17: the error flag wins over a full count. -/
theorem test_send_command_transport_error :
    gives (exec (.sendCommand 2#8 0x0000#16 31#8) (idleWith portSend [⟨4, true⟩] [])) (fun t =>
      t.st = .failed && t.err = .transport) = true := by decide

/-- P4, call 1. -/
theorem test_write_page_op :
    gives (exec (.writePageOp 0x0100#16 [0x49#8, 0x20#8, 0x61#8, 0x6D#8]) (idleWith portPage [whole] [])) (fun t =>
      t.op0 = 4#8 && t.history = [.write [0x02#8, 0x01#8, 0x00#8, 0x04#8] whole] &&
        t.payloadBytes = [0x49#8, 0x20#8, 0x61#8, 0x6D#8]) = true := by decide

/-- P4, call 3. -/
theorem test_read_data_op :
    gives (exec (.readDataOp 0x0001#16 5#8) (idleWith portRead [whole] [])) (fun t =>
      t.opc = 3#8 && t.history = [.write [0x03#8, 0x00#8, 0x01#8, 0x05#8] whole]) = true := by decide

/-! ## The controller's steps -/

/-- S4: the byte 5 for the acknowledgment. -/
theorem test_wrong_acknowledgment :
    gives (step (inState .ackAwaited 1#2 3#8 0#8 [] [⟨[5#8], false⟩])) (fun t =>
      t.st = .failed && t.err = .handshake && t.errExp = 199#8 && t.errAct = 5#8) = true := by decide

/-- V13, V14, V14b: the error flag wins; no byte is a time-out. -/
theorem test_handshake_without_a_byte :
    gives (step (inState .ackAwaited 1#2 3#8 0#8 [] [⟨[0xC7#8], true⟩])) (fun t => t.err = .transport) = true ∧
    gives (step (inState .ackAwaited 1#2 3#8 0#8 [] [⟨[], false⟩])) (fun t => t.err = .readTimeout) = true ∧
    gives (step (inState .completionAwaited 1#2 3#8 0#8 [] [⟨[], true⟩])) (fun t => t.err = .transport) = true := by
  decide

/-- V18, V19: the empty payload write. -/
theorem test_empty_payload_write :
    gives (step (inState .ackReceived 1#2 0#8 0#8 [⟨0, false⟩] [])) (fun t => t.st = .payloadTransferred) = true ∧
    gives (step (inState .ackReceived 1#2 0#8 0#8 [⟨0, true⟩] [])) (fun t => t.err = .transport) = true := by decide

/-- The second read of V20: it asks for 3 and is answered with one byte. -/
theorem test_partial_payload_read :
    gives (step { inState .ackReceived 2#2 5#8 2#8 [] [⟨[0x43#8], false⟩] with buf := [(0, 0x41#8), (1, 0x42#8)] }) (fun t =>
      t.st = .ackReceived && t.cnt = 3#8 && t.buf.readRange 0 3 = [0x41#8, 0x42#8, 0x43#8] &&
        t.history = [.read 3 ⟨[0x43#8], false⟩]) = true := by decide

/-- V23: bytes delivered with an error are discarded. -/
theorem test_payload_read_error :
    gives (step (inState .ackReceived 2#2 4#8 0#8 [] [⟨[1#8, 2#8], true⟩])) (fun t =>
      t.err = .transport && t.cnt = 0#8 && t.buf = []) = true := by decide

/-- R60: an answer of more bytes than asked for has no step. -/
theorem test_answer_outside_domain :
    refuses (step (inState .ackReceived 2#2 4#8 3#8 [] [⟨[1#8, 2#8], false⟩])) .answerOutsideDomain = true := by decide

/-! ## A state for the hypotheses of each obligation -/

theorem witness_ResetEventAbandonsTheOperation :
    { inState .ackReceived 2#2 5#8 2#8 [] [] with script := [portReset] }.sample.port.rst = true := by decide

theorem witness_StepRunsTheDecodedInstruction :
    ((idleWith portSend [whole] []).noReset ∧ (idleWith portSend [whole] []).st = .idle ∧
      (idleWith portSend [whole] []).sample.port.start = true ∧
      decodePort (idleWith portSend [whole] []).sample.port = .ok (.sendCommand 3#8 0#16 2#8)) ∧
    decodePort { portPage with viaFrame := true } = .ok (.writePage 0x0100#16 2#8) ∧
    decodePort { portRead with viaFrame := true } = .ok (.read 0x0001#16 3#8) ∧
    ((inState .ackAwaited 1#2 2#8 0#8 [] [ackByte]).noReset ∧
      (inState .ackAwaited 1#2 2#8 0#8 [] [ackByte]).readAnswer 1 = some ⟨[199#8], false⟩ ∧
      decode (.handshake [199#8]) = .ok .ack) ∧
    ((inState .completionAwaited 1#2 2#8 0#8 [] [doneByte]).noReset ∧
      (inState .completionAwaited 1#2 2#8 0#8 [] [doneByte]).readAnswer 1 = some ⟨[0#8], false⟩ ∧
      decode (.handshake [0#8]) = .ok .successHs) := by
  exact ⟨⟨rfl, rfl, rfl, rfl⟩, rfl, rfl, ⟨rfl, rfl, rfl⟩, rfl, rfl, rfl⟩

theorem witness_FrameIsABijection :
    [0xFF#8, 0xFF#8, 0xFF#8, 0xFF#8].length = 4 ∧ encodeFrame 255#8 0xFFFF#16 255#8 = [0xFF#8, 0xFF#8, 0xFF#8, 0xFF#8] ∧
      [0#8, 0#8, 0#8].length ≠ 4 := by decide

theorem witness_DecodeOfEncode :
    Instr.WellFormed (.writePageOp 0xFFFF#16 (page 255)) ∧ ¬ Instr.WellFormed (.writePageOp 0xFFFF#16 (page 256)) ∧
      Instr.WellFormed .ack ∧
      Instr.WellFormed (.sendCommand 255#8 0xFFFF#16 255#8) := by
  simp only [Instr.WellFormed, Instr.wellFormed, page_length]; decide

theorem witness_EncodeOfDecode :
    decode (.frame [0x03#8, 0xFF#8, 0xFF#8, 0xFF#8]) = .ok (.read 0xFFFF#16 255#8) ∧
      decode (.handshake [0xC7#8]) = .ok .ack ∧ decode (.host portSend) = .ok (.sendCommand 3#8 0#16 2#8) ∧
      decode (.host portPage) = .ok (.writePageOp 0x0100#16 [0x11#8, 0x22#8]) := ⟨rfl, rfl, rfl, rfl⟩

theorem witness_ReservedEncodingsAreRejected :
    3#8 < 4#8 ∧ 3#8 < 255#8 ∧ (1#8 ≠ 199#8 ∧ 1#8 ≠ 0#8) ∧ (200#8 ≠ 199#8 ∧ 200#8 ≠ 0#8) ∧ portReserved.op = 3#2 ∧
      ({ portPage with op0 := 3#8 }.op = 1#2 ∧ portPage.payload.length ≠ (3#8).toNat) := by decide

/-- The hypotheses of the statements of a frame that is accepted whole. -/
theorem witness_SendCommandSendsItsFrame :
    (idleWith portSend [whole] []).st = .idle ∧ (idleWith portSend [whole] []).writeAnswer 4 = some ⟨4, false⟩ := by decide

theorem witness_WritePageSendsItsFrame :
    (page 255).length ≤ 255 ∧ (idleWith portPage [whole] []).st = .idle ∧
      (idleWith portPage [whole] []).writeAnswer 4 = some ⟨4, false⟩ := ⟨(page_length 255).le, rfl, rfl⟩

theorem witness_ReadDataSendsItsFrame :
    (idleWith portRead [whole] []).st = .idle ∧ (idleWith portRead [whole] []).writeAnswer 4 = some ⟨4, false⟩ := by decide

theorem witness_SuccessAndWriteFramesAreSent :
    (idleWith { portSend with opcode := 1#8 } [whole] []).st = .idle ∧
      (idleWith { portSend with opcode := 1#8 } [whole] []).writeAnswer 4 = some ⟨4, false⟩ := by decide

theorem witness_WritePageFrameIsSent :
    (idleWith portPage [whole] []).sample.port.payload.length = (2#8).toNat ∧
      (idleWith portPage [whole] []).sample.st = .idle ∧
      (idleWith portPage [whole] []).sample.writeAnswer 4 = some ⟨4, false⟩ := by decide

theorem witness_ReadFrameIsSent :
    (idleWith { portRead with viaFrame := true } [whole] []).st = .idle ∧
      (idleWith { portRead with viaFrame := true } [whole] []).writeAnswer 4 = some ⟨4, false⟩ := by decide

theorem witness_FrameWriteOutcomes :
    Instr.startFields (.read 1#16 3#8) (idleWith portRead [⟨3, false⟩] []) = some ⟨2#2, 3#8, 1#16, 3#8, []⟩ ∧
      (idleWith portRead [⟨3, false⟩] []).st = .idle ∧
      (idleWith portRead [⟨3, false⟩] []).writeAnswer 4 = some ⟨3, false⟩ ∧
      (idleWith portRead [⟨4, true⟩] []).writeAnswer 4 = some ⟨4, true⟩ := by decide

theorem witness_StartOutsideIdleChangesNothing :
    Instr.startFields (.readDataOp 1#16 3#8) (inState .failed 1#2 0#8 0#8 [] []) = some ⟨2#2, 3#8, 1#16, 3#8, []⟩ ∧
      (inState .failed 1#2 0#8 0#8 [] []).st ≠ .idle := by decide

theorem witness_ReservedSelectorChangesNothing :
    (idleWith portReserved [] []).noReset ∧ (idleWith portReserved [] []).st = .idle ∧
      (idleWith portReserved [] []).sample.port.start = true ∧ (idleWith portReserved [] []).sample.port.op = 3#2 := by
  decide

theorem witness_UnpresentablePayloadIsRefused :
    255 < (page 256).length ∧ (idleWith portPage [] []).sample.port.payload.length ≠ (3#8).toNat :=
  ⟨by rw [page_length]; decide, by decide⟩

theorem witness_AnswerOutsideTheDomainHasNoStep :
    (Instr.startFields (.read 1#16 3#8) (idleWith portRead [⟨5, false⟩] []) = some ⟨2#2, 3#8, 1#16, 3#8, []⟩ ∧
      (idleWith portRead [⟨5, false⟩] []).st = .idle ∧ (idleWith portRead [⟨5, false⟩] []).writeAnswer 4 = none) ∧
    ((inState .ackAwaited 0#2 0#8 0#8 [] [⟨[199#8, 0#8], false⟩]).noReset ∧
      (inState .ackAwaited 0#2 0#8 0#8 [] [⟨[199#8, 0#8], false⟩]).readAnswer 1 = none) ∧
    ((inState .ackReceived 1#2 2#8 0#8 [⟨3, false⟩] []).noReset ∧
      (inState .ackReceived 1#2 2#8 0#8 [⟨3, false⟩] []).writeAnswer (2#8).toNat = none) ∧
    ((inState .ackReceived 2#2 2#8 1#8 [] [⟨[1#8, 2#8], false⟩]).noReset ∧ 1#8 < 2#8 ∧
      (inState .ackReceived 2#2 2#8 1#8 [] [⟨[1#8, 2#8], false⟩]).readAnswer ((2#8).toNat - (1#8).toNat) = none) := by
  decide

theorem witness_WritePageLatchesItsPayload :
    (page 255).length ≤ 255 ∧ { idleWith portPage [whole] [] with buf := [(254, 9#8)] }.BufCanonical ∧
      { idleWith portPage [whole] [] with buf := [(254, 9#8)] }.st = .idle ∧
      { idleWith portPage [whole] [] with buf := [(254, 9#8)] }.writeAnswer 4 = some ⟨4, false⟩ :=
  ⟨(page_length 255).le, by decide, by decide, by decide⟩

theorem witness_AckEndsTheAcknowledgmentWait : (inState .ackAwaited 0#2 0#8 0#8 [] []).st = .ackAwaited := by decide

theorem witness_SuccessMarkerEndsTheCompletionWait :
    (inState .completionAwaited 1#2 0#8 0#8 [] []).st = .completionAwaited := by decide

theorem witness_MarkerInTheWrongStateIsAWrongByte :
    (inState .completionAwaited 1#2 0#8 0#8 [] []).st = .completionAwaited ∧
      (inState .ackAwaited 1#2 0#8 0#8 [] []).st = .ackAwaited ∧
      ((inState .frameSent 1#2 0#8 0#8 [] []).st ≠ .ackAwaited ∧
        (inState .frameSent 1#2 0#8 0#8 [] []).st ≠ .completionAwaited) := by decide

theorem witness_SilentStepsChangeStAlone :
    (inState .frameSent 0#2 0#8 0#8 [] []).noReset ∧ (inState .ackReceived 0#2 0#8 0#8 [] []).noReset ∧
      ((inState .ackReceived 2#2 0#8 0#8 [] []).noReset ∧
        (inState .ackReceived 2#2 0#8 0#8 [] []).cnt = (inState .ackReceived 2#2 0#8 0#8 [] []).op0) ∧
      (inState .ackReceived 2#2 255#8 255#8 [] []).cnt = (inState .ackReceived 2#2 255#8 255#8 [] []).op0 ∧
      (inState .payloadTransferred 1#2 0#8 0#8 [] []).noReset := by decide

theorem witness_HandshakeReadOutcomes :
    ((inState .ackAwaited 0#2 0#8 0#8 [] [⟨[], false⟩]).noReset ∧
      (inState .ackAwaited 0#2 0#8 0#8 [] [⟨[], false⟩]).readAnswer 1 = some ⟨[], false⟩) ∧
    ((inState .completionAwaited 1#2 0#8 0#8 [] [⟨[7#8], true⟩]).noReset ∧
      (inState .completionAwaited 1#2 0#8 0#8 [] [⟨[7#8], true⟩]).readAnswer 1 = some ⟨[7#8], true⟩) := by decide

theorem witness_PayloadWriteOutcomes :
    (inState .ackReceived 1#2 0#8 0#8 [⟨0, false⟩] []).noReset ∧
      (inState .ackReceived 1#2 0#8 0#8 [⟨0, false⟩] []).writeAnswer (0#8).toNat = some ⟨0, false⟩ ∧
      (inState .ackReceived 1#2 255#8 0#8 [⟨254, false⟩] []).writeAnswer (255#8).toNat = some ⟨254, false⟩ := by decide

theorem witness_PayloadReadOutcomes :
    (inState .ackReceived 2#2 255#8 254#8 [] [⟨[9#8], false⟩]).noReset ∧ 254#8 < 255#8 ∧
      (inState .ackReceived 2#2 255#8 254#8 [] [⟨[9#8], false⟩]).readAnswer ((255#8).toNat - (254#8).toNat) =
        some ⟨[9#8], false⟩ := by decide

theorem witness_PayloadReadStoresInArrivalOrder :
    (inState .ackReceived 2#2 2#8 0#8 [] [⟨[9#8, 8#8], false⟩]).noReset ∧
      (inState .ackReceived 2#2 2#8 0#8 [] [⟨[9#8, 8#8], false⟩]).BufCanonical ∧ 0#8 < 2#8 ∧
      (inState .ackReceived 2#2 2#8 0#8 [] [⟨[9#8, 8#8], false⟩]).readAnswer ((2#8).toNat - (0#8).toNat) =
        some ⟨[9#8, 8#8], false⟩ ∧ [9#8, 8#8] ≠ [] := by decide

theorem witness_ReturnGoesToIdle :
    ({ inState .done 2#2 0#8 0#8 [] [] with script := [portReturn] }.noReset ∧
      { inState .done 2#2 0#8 0#8 [] [] with script := [portReturn] }.sample.port.ret = true) ∧
    ({ inState .failed 2#2 0#8 0#8 [] [] with script := [portReturn] }.noReset ∧
      { inState .failed 2#2 0#8 0#8 [] [] with script := [portReturn] }.sample.port.ret = true) := by decide

theorem witness_ReturnElsewhereIsRefused :
    (inState .ackReceived 2#2 0#8 0#8 [] []).st ≠ .done ∧ (inState .ackReceived 2#2 0#8 0#8 [] []).st ≠ .failed := by
  decide

theorem witness_DoneAndFailedAreTerminal :
    ((inState .done 1#2 0#8 0#8 [] []).noReset ∧ (inState .done 1#2 0#8 0#8 [] []).sample.port.ret = false) ∧
      ((inState .failed 1#2 0#8 0#8 [] []).noReset ∧ (inState .failed 1#2 0#8 0#8 [] []).sample.port.ret = false) ∧
      ((idleWith { portSend with start := false } [whole] []).noReset ∧
        (idleWith { portSend with start := false } [whole] []).st = .idle ∧
        (idleWith { portSend with start := false } [whole] []).sample.port.start = false) := by
  decide

theorem witness_ResultsAreReadOnlyAtTheEnds :
    (inState .done 2#2 0#8 0#8 [] []).st = .done ∧ (inState .done 2#2 0#8 0#8 [] []).hop = 2#2 ∧
      (inState .done 1#2 0#8 0#8 [] []).hop ≠ 2#2 ∧ (inState .idle 1#2 0#8 0#8 [] []).st ≠ .failed ∧
      (inState .failed 1#2 0#8 0#8 [] []).st = .failed ∧
      { inState .failed 1#2 0#8 0#8 [] [] with err := .transport }.err = .transport ∧
      { inState .failed 1#2 0#8 0#8 [] [] with err := .readTimeout }.err = .readTimeout ∧
      { inState .failed 1#2 0#8 0#8 [] [] with err := .shortWrite }.err = .shortWrite ∧
      { inState .failed 1#2 0#8 0#8 [] [] with err := .handshake }.err = .handshake := by decide

theorem witness_ControlInvariantIsKept :
    (inState .ackReceived 2#2 255#8 254#8 [] [⟨[9#8], false⟩]).Inv ∧
      ∃ t, step (inState .ackReceived 2#2 255#8 254#8 [] [⟨[9#8], false⟩]) = .next t := ⟨by decide, _, rfl⟩

theorem witness_OpcodeOfTheOperationIsKept :
    { inState .frameSent 2#2 1#8 0#8 [] [] with opc := 3#8 }.opcodeAgrees ∧
      ∃ t, step { inState .frameSent 2#2 1#8 0#8 [] [] with opc := 3#8 } = .next t := ⟨by decide, _, rfl⟩

theorem witness_HandshakeRecordIsTrue :
    (inState .ackAwaited 1#2 1#8 0#8 [] [⟨[5#8], false⟩]).handshakeTruth ∧
      ∃ t, step (inState .ackAwaited 1#2 1#8 0#8 [] [⟨[5#8], false⟩]) = .next t ∧ t.err = .handshake :=
  ⟨by decide, _, rfl, rfl⟩

theorem witness_BufferStaysCanonical :
    (inState .ackReceived 2#2 255#8 254#8 [] [⟨[9#8], false⟩]).BufCanonical ∧
      ∃ t, step (inState .ackReceived 2#2 255#8 254#8 [] [⟨[9#8], false⟩]) = .next t ∧ t.buf = [(254, 9#8)] :=
  ⟨by decide, _, rfl, rfl⟩

theorem witness_NoRunIsStuck :
    (inState .ackReceived 2#2 3#8 3#8 [] []).Inv ∧
      ((inState .ackReceived 2#2 255#8 254#8 [] [⟨[9#8], false⟩]).Inv ∧
        (inState .ackReceived 2#2 255#8 254#8 [] [⟨[9#8], false⟩]).busy = true ∧
        (inState .ackReceived 2#2 255#8 254#8 [] [⟨[9#8], false⟩]).transactionAnswered = true) :=
  ⟨by decide, by decide, by decide, by decide⟩

/-- The premise is no empty word: a transport that delivers two bytes to a handshake read does not meet it. -/
theorem test_transport_that_does_not_answer :
    (idleWith portSend [whole] [ackByte]).TransportAnswers 4 ∧
      ¬ (idleWith portSend [whole] [⟨[199#8, 0#8], false⟩]).TransportAnswers 4 := by decide

theorem witness_OnlyTheArrowsOfTheTable :
    (idleWith portPage [whole] []).noReset ∧ ∃ t, step (idleWith portPage [whole] []) = .next t ∧ t.st = .frameSent :=
  ⟨rfl, _, rfl, rfl⟩

theorem witness_AtMostOneTransactionAStep :
    ∃ t, step (idleWith portPage [whole] []) = .next t ∧ t.history.length = 1 := ⟨_, rfl, rfl⟩

theorem witness_TransactionsHaveTheirSizes :
    (∃ t x, step (idleWith portPage [whole] []) = .next t ∧ t.history = (idleWith portPage [whole] []).history ++ [x]) ∧
    (∃ t x, step (inState .ackReceived 1#2 0#8 0#8 [⟨0, false⟩] []) = .next t ∧ t.history = [x]) ∧
    (∃ t x, step (inState .ackReceived 2#2 1#8 0#8 [] [⟨[1#8], false⟩]) = .next t ∧ t.history = [x]) ∧
    (∃ t x, step (inState .completionAwaited 2#2 1#8 1#8 [] [doneByte]) = .next t ∧ t.history = [x]) :=
  ⟨⟨_, _, rfl, rfl⟩, ⟨_, _, rfl, rfl⟩, ⟨_, _, rfl, rfl⟩, ⟨_, _, rfl, rfl⟩⟩

theorem witness_PhasesAreEnteredOnlyByTheirMarker :
    (∃ t, step (inState .ackAwaited 1#2 1#8 0#8 [] [ackByte]) = .next t ∧ t.st = .ackReceived) ∧
    (∃ t, step (inState .completionAwaited 1#2 1#8 0#8 [] [doneByte]) = .next t ∧ t.st = .done) ∧
    (∃ t, step (inState .ackReceived 0#2 1#8 0#8 [] []) = .next t ∧ t.st = .done) :=
  ⟨⟨_, rfl, rfl⟩, ⟨_, rfl, rfl⟩, ⟨_, rfl, rfl⟩⟩

theorem witness_CommandRegistersHold :
    (idleWith portRead [whole] []).noReset ∧ ∃ t, step (idleWith portRead [whole] []) = .next t ∧ t.opc = 3#8 :=
  ⟨rfl, _, rfl, rfl⟩

theorem witness_CountAndBufferWriters :
    (inState .ackReceived 2#2 255#8 254#8 [] [⟨[9#8], false⟩]).noReset ∧
      ∃ t, step (inState .ackReceived 2#2 255#8 254#8 [] [⟨[9#8], false⟩]) = .next t ∧ t.cnt = 255#8 :=
  ⟨rfl, _, rfl, rfl⟩

theorem witness_ErrorRecordWriters :
    (inState .ackReceived 1#2 2#8 0#8 [⟨1, false⟩] []).noReset ∧
      ∃ t, step (inState .ackReceived 1#2 2#8 0#8 [⟨1, false⟩] []) = .next t ∧ t.err = .shortWrite :=
  ⟨rfl, _, rfl, rfl⟩

theorem witness_SendCommandRunsAsItsPseudocode :
    (idleWith portSend [whole] [ackByte]).st = .idle ∧ (idleWith portSend [whole] [ackByte]).oneStart portSend ∧
      decodePort portSend = .ok (.sendCommand 3#8 0#16 2#8) := ⟨rfl, ⟨rfl, rfl, rfl⟩, rfl⟩

theorem witness_WritePageRunsAsItsPseudocode :
    (idleWith portPage [whole, wholePage] [ackByte, doneByte]).st = .idle ∧
      (idleWith portPage [whole, wholePage] [ackByte, doneByte]).oneStart portPage ∧
      decodePort portPage = .ok (.writePageOp 0x0100#16 [0x11#8, 0x22#8]) := ⟨rfl, ⟨rfl, rfl, rfl⟩, rfl⟩

theorem witness_ReadDataRunsAsItsPseudocode :
    (idleWith portRead [whole] [ackByte]).st = .idle ∧ (idleWith portRead [whole] [ackByte]).oneStart portRead ∧
      decodePort portRead = .ok (.readDataOp 0x0001#16 3#8) := ⟨rfl, ⟨rfl, rfl, rfl⟩, rfl⟩

theorem witness_EveryOperationEnds :
    (idleWith portPage [whole, wholePage] [ackByte, doneByte]).st = .idle ∧
      (idleWith portPage [whole, wholePage] [ackByte, doneByte]).oneStart portPage ∧
      decodePort portPage = .ok (.writePageOp 0x0100#16 [0x11#8, 0x22#8]) ∧ portPage.op = 1#2 ∧
      portPage.payload.length = portPage.op0.toNat ∧
      (idleWith portPage [whole, wholePage] [ackByte, doneByte]).TransportAnswers 6 :=
  ⟨rfl, ⟨rfl, rfl, rfl⟩, rfl, rfl, rfl, by decide⟩

theorem witness_TransactionsAreBounded :
    (idleWith portSend [whole] [ackByte]).oneStart portSend ∧
      decodePort portSend = .ok (.sendCommand 3#8 0#16 2#8) ∧
      ∃ t, steps 4 (idleWith portSend [whole] [ackByte]) = .next t ∧ t.history.length = 2 :=
  ⟨⟨rfl, rfl, rfl⟩, rfl, _, rfl, rfl⟩

theorem witness_WritePageSucceedsExactlyWhen :
    (idleWith portPage [whole, wholePage] [ackByte, doneByte]).oneStart portPage ∧
      decodePort portPage = .ok (.writePageOp 0x0100#16 [0x11#8, 0x22#8]) ∧
      holdsNext (fun t => t.st = .done) (steps 6 (idleWith portPage [whole, wholePage] [ackByte, doneByte])) :=
  ⟨⟨rfl, rfl, rfl⟩, rfl, rfl⟩

theorem witness_SendCommandSucceedsExactlyWhen :
    (idleWith portSend [whole] [ackByte]).oneStart portSend ∧
      decodePort portSend = .ok (.sendCommand 3#8 0#16 2#8) ∧
      holdsNext (fun t => t.st = .done) (steps 4 (idleWith portSend [whole] [ackByte])) :=
  ⟨⟨rfl, rfl, rfl⟩, rfl, rfl⟩

/-- Two pieces for a length of 3. -/
theorem witness_ReadDataReturnsWhatArrived :
    (idleWith portRead [whole] [ackByte, ⟨[1#8], false⟩, ⟨[2#8, 3#8], false⟩, doneByte]).BufCanonical ∧
      (idleWith portRead [whole] [ackByte, ⟨[1#8], false⟩, ⟨[2#8, 3#8], false⟩, doneByte]).oneStart portRead ∧
      decodePort portRead = .ok (.readDataOp 0x0001#16 3#8) ∧
      (∀ piece ∈ [[1#8], [2#8, 3#8]], piece ≠ []) ∧ [[1#8], [2#8, 3#8]].flatten.length = (3#8).toNat :=
  ⟨rfl, ⟨rfl, rfl, rfl⟩, rfl, by decide, rfl⟩

theorem witness_OperationsAreIndependentOfThePast :
    State.reset.st = .idle ∧
      { State.reset with hop := 2#2, opc := 3#8, cnt := 4#8, buf := [(0, 0x49#8)], err := .handshake }.st = .idle ∧
      State.reset.sameOutside
        { State.reset with hop := 2#2, opc := 3#8, cnt := 4#8, buf := [(0, 0x49#8)], err := .handshake } ∧
      State.reset.BufCanonical ∧
      { State.reset with hop := 2#2, opc := 3#8, cnt := 4#8, buf := [(0, 0x49#8)], err := .handshake }.BufCanonical := by
  decide

end Sys2Proof.Tests
end

section
/-! PROOFS. What a step fetches: the instruction on the host's signals, or the one a handshake byte stands for. -/

namespace Sys2Proof.Machine

open Sys2Proof

/-! ## Where a step fetches -/

/-- In `Idle` the step fetches from the host's signals (R151). -/
theorem step_idle {s : State} (r : s.noReset) (h : s.st = .idle) : step s = s.sample.fetchStart.run := by
  simp [step, State.fetch, r, h]

/-- In the two handshake waits the step fetches from the channel (R114). -/
theorem step_handshakeWait {s : State} (r : s.noReset) (h : s.st = .ackAwaited ∨ s.st = .completionAwaited) :
    step s = s.sample.fetchMarker.run := by
  rcases h with h | h
  · simp [step, State.fetch, r, h]
  · simp [step, State.fetch, r, h]

/-! ## What is fetched -/

/-- A requested `Start` fetches what its signals decode to, in the state as it is. -/
theorem State.fetchStart_instr {u : State} {i : Instr} (q : u.port.start = true) (d : decodePort u.port = .ok i) :
    u.fetchStart = .instr i u := by
  simp [State.fetchStart, q, d]

/-- A marker delivered without an error is fetched in the state with its read answered and recorded. -/
theorem State.fetchMarker_instr {u : State} {b : Byte} {i : Instr} (w : u.readAnswer 1 = some ⟨[b], false⟩)
    (d : decodeHs [b] = .ok i) : u.fetchMarker = .instr i (u.afterRead.record (.read 1 ⟨[b], false⟩)) := by
  simp [State.fetchMarker, State.chanRead_eq, w, d]

/-- Settles O4: each clause is where the step fetches, then what is fetched there. -/
theorem stepRunsTheDecodedInstruction : Obligations.StepRunsTheDecodedInstruction := by
  refine ⟨fun s i r h q d => ?_, fun s b i r h w d => ?_⟩
  · rw [step_idle r h, State.fetchStart_instr q d]
    rfl
  · have fetched := State.fetchMarker_instr ((State.sample_readAnswer s 1).trans w) d
    rw [step_handshakeWait r h, fetched]
    simp [Fetch.run, State.record]

end Sys2Proof.Machine
end

section
/-! PROOFS. What a step writes: every next state is the state before with the channel moved on, and then one write of the
sequencing register, of the error record, or of the payload buffer. -/

namespace Sys2Proof.Machine

open Sys2Proof

/-! ## What a transaction moves -/

/-- What a transaction moves: the history and the channel's answers to come (R59, R69). -/
structure ChannelSide where
  history : List Transaction
  writeAnswers : List WriteAnswer
  readAnswers : List ReadAnswer
  freeCount : Nat

/-- The state with the channel moved on, every register kept. -/
def State.withChannel (s : State) (c : ChannelSide) : State :=
  { s with
    history := c.history
    writeAnswers := c.writeAnswers
    readAnswers := c.readAnswers
    freeCount := c.freeCount }

@[simp] theorem State.withChannel_st (s : State) (c : ChannelSide) : (s.withChannel c).st = s.st := rfl
@[simp] theorem State.withChannel_hop (s : State) (c : ChannelSide) : (s.withChannel c).hop = s.hop := rfl
@[simp] theorem State.withChannel_opc (s : State) (c : ChannelSide) : (s.withChannel c).opc = s.opc := rfl
@[simp] theorem State.withChannel_addr (s : State) (c : ChannelSide) : (s.withChannel c).addr = s.addr := rfl
@[simp] theorem State.withChannel_op0 (s : State) (c : ChannelSide) : (s.withChannel c).op0 = s.op0 := rfl
@[simp] theorem State.withChannel_cnt (s : State) (c : ChannelSide) : (s.withChannel c).cnt = s.cnt := rfl
@[simp] theorem State.withChannel_buf (s : State) (c : ChannelSide) : (s.withChannel c).buf = s.buf := rfl
@[simp] theorem State.withChannel_err (s : State) (c : ChannelSide) : (s.withChannel c).err = s.err := rfl
@[simp] theorem State.withChannel_errExp (s : State) (c : ChannelSide) : (s.withChannel c).errExp = s.errExp := rfl
@[simp] theorem State.withChannel_errAct (s : State) (c : ChannelSide) : (s.withChannel c).errAct = s.errAct := rfl

theorem State.eq_withChannel (s : State) : ∃ c, s = s.withChannel c :=
  ⟨⟨s.history, s.writeAnswers, s.readAnswers, s.freeCount⟩, rfl⟩

theorem State.afterWrite_record_eq_withChannel (s : State) (x : Transaction) :
    ∃ c, s.afterWrite.record x = s.withChannel c := by
  unfold State.afterWrite
  split <;> exact ⟨⟨_, _, _, _⟩, rfl⟩

theorem State.afterRead_record_eq_withChannel (s : State) (x : Transaction) :
    ∃ c, s.afterRead.record x = s.withChannel c := by
  unfold State.afterRead
  split <;> exact ⟨⟨_, _, _, _⟩, rfl⟩

/-! ## What a `Start` latches -/

/-- The operand and payload of a `Start` go with its operation (R26, R37, R87): only `WritePage` has a payload, of the
length it announces, and `WritePage` and `ReadData` fix the opcode. -/
theorem startFields_shape {i : Instr} {s : State} {f : StartFields} (h : i.startFields s = some f) :
    (f.hop = hopSendCommand ∧ f.payload = []) ∨
    (f.hop = hopWritePage ∧ f.opc = opWritePage ∧ f.payload.length = f.op0.toNat) ∨
    (f.hop = hopReadData ∧ f.opc = opRead ∧ f.payload = []) := by
  cases i with
  | success | write | sendCommand => cases h; exact .inl ⟨rfl, rfl⟩
  | read | readDataOp => cases h; exact .inr (.inr ⟨rfl, rfl, rfl⟩)
  | ack | successHs => cases h
  | writePage a p =>
    simp only [Instr.startFields] at h
    split at h
    · cases h; exact .inr (.inl ⟨rfl, rfl, ‹_›⟩)
    · cases h
  | writePageOp a payload =>
    simp only [Instr.startFields] at h
    split at h
    · rename_i hl
      cases h
      exact .inr (.inl ⟨rfl, rfl, (payloadOperand_toNat (payloadOperand_of_le hl)).symm⟩)
    · cases h

/-- No `Start` latches the reserved selector (R92). -/
theorem startFields_hop_ne_reserved {i : Instr} {s : State} {f : StartFields} (h : i.startFields s = some f) :
    f.hop ≠ 3#2 := by
  rcases startFields_shape h with ⟨e, -⟩ | ⟨e, -⟩ | ⟨e, -⟩ <;> rw [e] <;> decide

/-- A latched payload fits the buffer (R109). -/
theorem startFields_payload_le {i : Instr} {s : State} {f : StartFields} (h : i.startFields s = some f) :
    f.payload.length ≤ Config.bufDepth := by
  rcases startFields_shape h with ⟨-, e⟩ | ⟨-, -, e⟩ | ⟨-, -, e⟩
  · simp [e]
  · exact e.trans_le (Nat.le_of_lt_succ f.op0.isLt)
  · simp [e]

/-- Only `WritePage` latches a payload. -/
theorem startFields_payload_nil {i : Instr} {s : State} {f : StartFields} (h : i.startFields s = some f)
    (hop : f.hop ≠ hopWritePage) : f.payload = [] := by
  rcases startFields_shape h with ⟨-, e⟩ | ⟨e, -⟩ | ⟨-, -, e⟩
  · exact e
  · exact absurd e hop
  · exact e

/-! ## The effect of a step -/

/-- The five states in which an operation is in progress (R34). -/
theorem State.busy_iff (s : State) :
    s.busy = true ↔ s.st = .frameSent ∨ s.st = .ackAwaited ∨ s.st = .ackReceived ∨ s.st = .payloadTransferred ∨
      s.st = .completionAwaited := by
  rw [State.busy_eq]
  cases s.st <;> simp [St.busy]

/-- The error is one that the channel alone raises, no `HandshakeError` (R181, R182, R184). -/
abbrev Error.ofChannel (e : Error) : Prop := e.kind ≠ .handshake

/-- The states that a busy controller enters without an error (R152 to R161), with the condition on the operation. -/
inductive State.Advances (u : State) : St → Prop
  | turnToRead (h : u.st = .frameSent) : u.Advances .ackAwaited
  | acknowledged (h : u.st = .ackAwaited) : u.Advances .ackReceived
  | commandDone (h : u.st = .ackReceived) (o : u.hop = hopSendCommand) : u.Advances .done
  | pageSent (h : u.st = .ackReceived) (o : u.hop = hopWritePage) : u.Advances .payloadTransferred
  | payloadDone (h : u.st = .ackReceived) (o : u.hop = hopReadData) (c : u.cnt = u.op0) : u.Advances .payloadTransferred
  | turnToCompletion (h : u.st = .payloadTransferred) : u.Advances .completionAwaited
  | completed (h : u.st = .completionAwaited) : u.Advances .done

theorem State.Advances.busy {u : State} {target : St} (p : u.Advances target) : u.busy = true := by
  rw [State.busy_iff]
  cases p <;> simp [*]

theorem State.Advances.target_ne {u : State} {target : St} (p : u.Advances target) :
    target ≠ .idle ∧ target ≠ .failed := by
  cases p <;> simp

/-- What a step writes; `u` is the state with the host's signals sampled. -/
inductive Effect (u : State) : State → Prop
  | reset (r : u.port.rst = true) : Effect u u.resetEvent
  | wait (h : u.st = .idle ∨ u.st = .done ∨ u.st = .failed) : Effect u u
  | start (h : u.st = .idle) (q : u.port.start = true) (i : Instr) (f : StartFields) (l : i.startFields u = some f)
      (c : ChannelSide) : Effect u (((f.latched u).withChannel c).enter .frameSent)
  | startFails (h : u.st = .idle) (q : u.port.start = true) (i : Instr) (f : StartFields)
      (l : i.startFields u = some f) (c : ChannelSide) (e : Error) (k : e.ofChannel) :
      Effect u (((f.latched u).withChannel c).raise e)
  | advance (target : St) (p : u.Advances target) (c : ChannelSide) : Effect u ((u.withChannel c).enter target)
  | fails (h : u.busy = true) (c : ChannelSide) (e : Error) (k : e.ofChannel) : Effect u ((u.withChannel c).raise e)
  | wrongByte (h : u.st = .ackAwaited ∨ u.st = .completionAwaited) (c : ChannelSide) (expected actual : Byte)
      (m : expected = ackValue ∨ expected = successValue) (ne : actual ≠ expected) :
      Effect u ((u.withChannel c).raise (.handshake expected actual))
  | store (h : u.st = .ackReceived) (o : u.hop = hopReadData) (lt : u.cnt < u.op0) (c : ChannelSide)
      (bytes : List Byte) (ne : bytes ≠ []) (le : bytes.length ≤ u.missing) :
      Effect u ((u.withChannel c).storeReceived bytes)
  | hostReturn (h : u.st = .done ∨ u.st = .failed) : Effect u (u.enter .idle)

/-- A silent step moves no channel. -/
theorem Effect.advance_silently {u : State} {target : St} (p : u.Advances target) : Effect u (u.enter target) := by
  obtain ⟨c, e⟩ := u.eq_withChannel
  exact Eq.subst (motive := fun v => Effect u (v.enter target)) e.symm (.advance target p c)

/-- A write of all its bytes leads on, any other end raises an error of the channel (R118). -/
theorem State.afterWriteAll_ends (v : State) (a : WriteAnswer) (k : Nat) (target : St) :
    v.afterWriteAll a k target = v.enter target ∨ ∃ e : Error, e.ofChannel ∧ v.afterWriteAll a k target = v.raise e := by
  rcases v.afterWriteAll_cases a k target with ⟨-, e⟩ | ⟨-, -, e⟩ | ⟨-, -, e⟩
  · exact .inr ⟨.transport, by simp [Error.kind], e⟩
  · exact .inr ⟨.shortWrite, by simp [Error.kind], e⟩
  · exact .inl e

/-- How a handshake read ends: an error of the channel, or the comparison of a byte (R114). -/
theorem State.afterMarker_ends (v : State) (a : ReadAnswer) :
    (∃ e : Error, e.ofChannel ∧ v.afterMarker a = v.raise e) ∨ ∃ b, v.afterMarker a = v.receiveByte b := by
  unfold State.afterMarker
  split
  · exact .inl ⟨.transport, by simp [Error.kind], rfl⟩
  · split
    · exact .inl ⟨.readTimeout, by simp [Error.kind], rfl⟩
    · exact .inr ⟨_, rfl⟩

/-- The marker leads on, another byte is a `HandshakeError` (R153, R154, R161, R162). -/
theorem Effect.of_receiveByte {u : State} (h : u.st = .ackAwaited ∨ u.st = .completionAwaited) (c : ChannelSide)
    (b : Byte) : Effect u ((u.withChannel c).receiveByte b) := by
  rcases h with h | h
  · rw [State.receiveByte_ackAwaited (s := u.withChannel c) h]
    rcases (u.withChannel c).compareByte_cases ackValue b .ackReceived with ⟨-, e⟩ | ⟨ne, e⟩ <;> rw [e]
    · exact .advance _ (.acknowledged h) c
    · exact .wrongByte (.inl h) c _ _ (.inl rfl) ne
  · rw [State.receiveByte_completionAwaited (s := u.withChannel c) h]
    rcases (u.withChannel c).compareByte_cases successValue b .done with ⟨-, e⟩ | ⟨ne, e⟩ <;> rw [e]
    · exact .advance _ (.completed h) c
    · exact .wrongByte (.inr h) c _ _ (.inr rfl) ne

/-- Every way a step answers a next state is one of the effects. -/
theorem StepKind.effect {u t : State} (k : StepKind u t) : Effect u t := by
  cases k with
  | reset r => exact .reset r
  | wait r h => exact .wait h
  | start r h q i d f l a w =>
    obtain ⟨c, e⟩ := (f.latched u).afterWrite_record_eq_withChannel (.write f.frame a)
    rw [e]
    rcases ((f.latched u).withChannel c).afterWriteAll_ends a 4 .frameSent with e | ⟨x, k, e⟩ <;> rw [e]
    · exact .start h q i f l c
    · exact .startFails h q i f l c x k
  | turnToRead r h => exact .advance_silently (.turnToRead h)
  | marker r h a w =>
    obtain ⟨c, e⟩ := u.afterRead_record_eq_withChannel (.read 1 a)
    rw [e]
    rcases (u.withChannel c).afterMarker_ends a with ⟨x, k, e⟩ | ⟨b, e⟩ <;> rw [e]
    · exact .fails (u.busy_iff.2 (by rcases h with h | h <;> simp [h])) c x k
    · exact .of_receiveByte h c b
  | commandDone r h o => exact .advance_silently (.commandDone h o)
  | payloadWrite r h o a w =>
    obtain ⟨c, e⟩ := u.afterWrite_record_eq_withChannel (.write u.payloadBytes a)
    rw [e]
    rcases (u.withChannel c).afterWriteAll_ends a u.len .payloadTransferred with e | ⟨x, k, e⟩ <;> rw [e]
    · exact .advance _ (.pageSent h o) c
    · exact .fails (u.busy_iff.2 (by simp [h])) c x k
  | payloadRead r h o lt a w =>
    obtain ⟨c, e⟩ := u.afterRead_record_eq_withChannel (.read u.missing a)
    have busy : u.busy = true := u.busy_iff.2 (by simp [h])
    rw [e]
    rcases (u.withChannel c).afterPayloadRead_cases a with ⟨-, e⟩ | ⟨-, -, e⟩ | ⟨-, ne, e⟩ <;> rw [e]
    · exact .fails busy c _ (by simp [Error.kind])
    · exact .fails busy c _ (by simp [Error.kind])
    · exact .store h o lt c _ ne (State.readAnswer_le w)
  | payloadDone r h o c => exact .advance_silently (.payloadDone h o c)
  | turnToCompletion r h => exact .advance_silently (.turnToCompletion h)
  | hostReturn r h q => exact .hostReturn h

theorem step_effect {s t : State} (h : step s = .next t) : Effect s.sample t := (step_kind h).effect

end Sys2Proof.Machine
end

section
/-! PROOFS. The invariants that every step keeps (R41, R26, R33, R30): each is shown for the effects of a step. -/

namespace Sys2Proof.Machine

open Sys2Proof

/-- What the sampling of the host's signals and every effect keep, every step keeps. -/
theorem step_keeps {P : State → Prop} (sampled : ∀ s : State, P s → P s.sample)
    (kept : ∀ u t : State, P u → Effect u t → P t) {s t : State} (p : P s) (h : step s = .next t) : P t :=
  kept s.sample t (sampled s p) (step_effect h)

/-! ## The control invariant (R41) -/

/-- What R41 says of the registers of an operation without an error, whatever its state. -/
structure State.Armed (s : State) : Prop where
  noError : s.err = .noError
  bounded : s.cnt ≤ s.op0
  onlyForReads : s.hop ≠ hopReadData → s.cnt = 0#8
  legal : s.hop ≠ 3#2

theorem State.Armed.withChannel {s : State} (h : s.Armed) (c : ChannelSide) : (s.withChannel c).Armed :=
  ⟨h.noError, h.bounded, h.onlyForReads, h.legal⟩

/-- An operation in progress is not in `Idle` and has not failed. -/
theorem State.st_ne_of_busy {s : State} (busy : s.busy = true) : s.st ≠ .idle ∧ s.st ≠ .failed := by
  rcases s.busy_iff.1 busy with e | e | e | e | e <;> simp [e]

/-- An operation in progress has the registers that R41 asks for. -/
theorem State.Inv.armed {s : State} (h : s.Inv) (busy : s.busy = true) : s.Armed := by
  obtain ⟨agrees, bounded, reads, -, legal, -⟩ := h
  have active := State.st_ne_of_busy busy
  exact ⟨of_not_not fun he => active.2 ((agrees active.1).2 he), bounded (.inl busy), reads active.1, legal active.1⟩

theorem StartFields.armed {i : Instr} {u : State} {f : StartFields} (l : i.startFields u = some f) :
    (f.latched u).Armed :=
  ⟨rfl, Nat.zero_le _, fun _ => rfl, startFields_hop_ne_reserved l⟩

/-- In `Idle` R41 asks for nothing. -/
theorem State.inv_of_idle {s : State} (h : s.st = .idle) : s.Inv := by
  simp [State.Inv, State.recordAgrees, State.countBounded, State.countOnlyForReads, State.countComplete,
    State.selectorLegal, State.payloadStates, State.busy, St.busy, h]

/-- An error raised in an operation leaves its registers and is on record in `Failed` (R190). -/
theorem State.Armed.raise {s : State} (h : s.Armed) (e : Error) : (s.raise e).Inv :=
  ⟨fun _ => iff_of_true rfl e.kind_ne_noError, fun _ => h.bounded, fun _ => h.onlyForReads, nofun, fun _ => h.legal,
    nofun⟩

/-- A state entered without an error meets R41 when its operation has the payload that the state is past. -/
theorem State.Armed.inv {s : State} (h : s.Armed) (ne : s.st ≠ .failed) (complete : s.countComplete)
    (payload : s.payloadStates) : s.Inv :=
  ⟨fun _ => iff_of_false ne (by simp [h.noError]), fun _ => h.bounded, fun _ => h.onlyForReads, complete,
    fun _ => h.legal, payload⟩

theorem State.Advances.keeps_inv {u : State} {target : St} (p : u.Advances target) (h : u.Inv) (c : ChannelSide) :
    ((u.withChannel c).enter target).Inv := by
  obtain ⟨noError, bounded, reads, legal⟩ := h.armed p.busy
  have armed : ((u.withChannel c).enter target).Armed := ⟨noError, bounded, reads, legal⟩
  obtain ⟨-, -, -, complete, -, payload⟩ := h
  refine armed.inv p.target_ne.2 ?_ ?_
  · cases p with
    | turnToRead | acknowledged => simp [State.countComplete]
    | commandDone hs o | pageSent hs o => simp [State.countComplete, o, hopSendCommand, hopWritePage, hopReadData]
    | payloadDone hs o cnt => exact fun _ _ => cnt
    | turnToCompletion hs => exact fun _ => complete (.inl hs)
    | completed hs => exact fun _ => complete (.inr (.inl hs))
  · cases p with
    | turnToRead | acknowledged | commandDone | completed => simp [State.payloadStates]
    | pageSent hs o => exact fun _ => .inl o
    | payloadDone hs o cnt => exact fun _ => .inr o
    | turnToCompletion hs => exact fun _ => payload (.inl hs)

/-- A payload read never counts beyond `op0` (R106). -/
theorem State.storeReceived_cnt_le {v : State} {bytes : List Byte} (bounded : v.cnt ≤ v.op0)
    (le : bytes.length ≤ v.missing) : (v.storeReceived bytes).cnt ≤ v.op0 := by
  have stored := State.storeReceived_cnt_toNat bounded le
  have bounded : v.cnt.toNat ≤ v.op0.toNat := bounded
  rw [BitVec.le_def, stored]
  simp only [State.missing] at le
  omega

theorem Effect.keeps_inv {u t : State} (h : u.Inv) (k : Effect u t) : t.Inv := by
  cases k with
  | reset r => exact State.inv_of_idle rfl
  | wait _ => exact h
  | start _ _ i f l c =>
    obtain ⟨noError, bounded, reads, legal⟩ := StartFields.armed l
    exact State.Armed.inv ⟨noError, bounded, reads, legal⟩ (by simp) (by simp [State.countComplete])
      (by simp [State.payloadStates])
  | startFails _ _ i f l c e _ => exact ((StartFields.armed l).withChannel c).raise e
  | advance target p c => exact p.keeps_inv h c
  | fails busy c e _ => exact ((h.armed busy).withChannel c).raise e
  | wrongByte hs c expected actual _ _ =>
    exact ((h.armed (u.busy_iff.2 (by rcases hs with hs | hs <;> simp [hs]))).withChannel c).raise _
  | store hs o lt c bytes _ le =>
    obtain ⟨noError, bounded, -, legal⟩ := h.armed (u.busy_iff.2 (by simp [hs]))
    have armed : ((u.withChannel c).storeReceived bytes).Armed :=
      ⟨noError, State.storeReceived_cnt_le bounded le, fun other => absurd o other, legal⟩
    exact armed.inv (by simp [hs]) (by simp [State.countComplete, hs]) (by simp [State.payloadStates, hs])
  | hostReturn _ => exact State.inv_of_idle rfl

theorem State.Inv.sample {s : State} (h : s.Inv) : s.sample.Inv := by
  simpa [State.Inv, State.recordAgrees, State.countBounded, State.countOnlyForReads, State.countComplete,
    State.selectorLegal, State.payloadStates, State.busy_eq] using h

/-- Settles O40: R41 for each effect of a step, through the registers of the operation in progress. -/
theorem controlInvariantIsKept : Obligations.ControlInvariantIsKept := fun _ _ =>
  step_keeps (P := State.Inv) (fun _ => State.Inv.sample) (fun _ _ => Effect.keeps_inv)

/-! ## The opcode of the operation (R26) -/

/-- The command registers are written by a reset or a requested `Start`, and are kept otherwise (R29). -/
theorem Effect.command {u t : State} (k : Effect u t) :
    (u.port.rst = true ∧ t.st = .idle) ∨
    (u.st = .idle ∧ u.port.start = true ∧ (t.st = .frameSent ∨ t.st = .failed) ∧
      ∃ i f, Instr.startFields i u = some f ∧ t.hop = f.hop ∧ t.opc = f.opc) ∨
    ((u.st = .idle → t.st = .idle) ∧ t.hop = u.hop ∧ t.opc = u.opc ∧ t.addr = u.addr ∧ t.op0 = u.op0) := by
  cases k with
  | reset r => exact .inl ⟨r, rfl⟩
  | wait _ => exact .inr (.inr ⟨id, rfl, rfl, rfl, rfl⟩)
  | start h q i f l c => exact .inr (.inl ⟨h, q, .inl rfl, i, f, l, rfl, rfl⟩)
  | startFails h q i f l c e _ => exact .inr (.inl ⟨h, q, .inr rfl, i, f, l, rfl, rfl⟩)
  | advance target p c => exact .inr (.inr ⟨fun h => absurd h (State.st_ne_of_busy p.busy).1, rfl, rfl, rfl, rfl⟩)
  | fails busy c e _ => exact .inr (.inr ⟨fun h => absurd h (State.st_ne_of_busy busy).1, rfl, rfl, rfl, rfl⟩)
  | wrongByte hs c _ _ _ _ => exact .inr (.inr ⟨fun h => by simp [h] at hs, rfl, rfl, rfl, rfl⟩)
  | store hs _ _ c bytes _ _ => exact .inr (.inr ⟨fun h => by simp [h] at hs, rfl, rfl, rfl, rfl⟩)
  | hostReturn hs => exact .inr (.inr ⟨fun _ => rfl, rfl, rfl, rfl, rfl⟩)

/-- A `Start` of `WritePage` or `ReadData` latches the opcode of its frame (R87). -/
theorem startFields_opcode {i : Instr} {s : State} {f : StartFields} (h : i.startFields s = some f) :
    (f.hop = hopWritePage → f.opc = opWritePage) ∧ (f.hop = hopReadData → f.opc = opRead) := by
  rcases startFields_shape h with ⟨e, -⟩ | ⟨e, o, -⟩ | ⟨e, o, -⟩ <;>
    simp [hopSendCommand, hopWritePage, hopReadData, *]

theorem Effect.keeps_opcodeAgrees {u t : State} (h : u.opcodeAgrees) (k : Effect u t) : t.opcodeAgrees := by
  intro active
  rcases k.command with ⟨-, idle⟩ | ⟨-, -, -, i, f, l, hop, opc⟩ | ⟨idle, hop, opc, -, -⟩
  · exact absurd idle active
  · rw [hop, opc]
    exact startFields_opcode l
  · rw [hop, opc]
    exact h fun hs => active (idle hs)

/-- Settles O41: a `Start` latches the opcode with the selector, and nothing else writes either. -/
theorem opcodeOfTheOperationIsKept : Obligations.OpcodeOfTheOperationIsKept := fun _ _ =>
  step_keeps (P := State.opcodeAgrees) (fun s h => by simpa [State.opcodeAgrees] using h)
    (fun _ _ => Effect.keeps_opcodeAgrees)

/-! ## The record of a `HandshakeError` (R33) -/

theorem Effect.keeps_handshakeTruth {u t : State} (h : u.handshakeTruth) (k : Effect u t) : t.handshakeTruth := by
  intro failed handshake
  cases k with
  | reset _ => cases failed
  | wait _ => exact h failed handshake
  | start => cases failed
  | startFails _ _ _ _ _ _ e k => exact absurd handshake k
  | advance target p c => exact absurd failed p.target_ne.2
  | fails _ _ e k => exact absurd handshake k
  | wrongByte _ c expected actual m ne => exact ⟨ne, m⟩
  | store hs => simp [hs] at failed
  | hostReturn _ => cases failed

/-- Settles O42: only the comparison of a handshake byte raises a `HandshakeError`, with a marker and another byte. -/
theorem handshakeRecordIsTrue : Obligations.HandshakeRecordIsTrue := fun _ _ =>
  step_keeps (P := State.handshakeTruth) (fun s h => by simpa [State.handshakeTruth] using h)
    (fun _ _ => Effect.keeps_handshakeTruth)

/-! ## The payload buffer (R30) -/

/-- The bytes of a payload read fit the buffer (R106). -/
theorem State.store_fits {u : State} {bytes : List Byte} (lt : u.cnt < u.op0) (le : bytes.length ≤ u.missing) :
    u.cnt.toNat + bytes.length ≤ u.op0.toNat := by
  have lt : u.cnt.toNat < u.op0.toNat := lt
  unfold State.missing at le
  omega

theorem State.op0_le_depth (u : State) : u.op0.toNat ≤ Config.bufDepth := Nat.le_of_lt_succ u.op0.isLt

theorem StartFields.latched_canonical {i : Instr} {u : State} {f : StartFields} (l : i.startFields u = some f)
    (h : u.BufCanonical) : (f.latched u).BufCanonical :=
  Memory.wf_writeRange h 0 f.payload (by simpa using startFields_payload_le l)

theorem Effect.keeps_canonical {u t : State} (h : u.BufCanonical) (k : Effect u t) : t.BufCanonical := by
  cases k with
  | reset _ => exact Memory.wf_ofFn _ _ le_rfl
  | start _ _ i f l _ | startFails _ _ i f l _ _ _ => exact StartFields.latched_canonical l h
  | store _ _ lt c bytes _ le =>
    exact Memory.wf_writeRange h _ bytes ((State.store_fits lt le).trans u.op0_le_depth)
  | wait | advance | fails | wrongByte | hostReturn => exact h

/-- Settles O43: a `Start` writes its payload from 0 up and a payload read its bytes below `op0`, both inside the buffer. -/
theorem bufferStaysCanonical : Obligations.BufferStaysCanonical := fun _ _ =>
  step_keeps (P := State.BufCanonical) (fun s h => by simpa [State.BufCanonical] using h)
    (fun _ _ => Effect.keeps_canonical)

/-! ## What only some steps write -/

/-- Settles O49: the writers of the command registers, without the reset. -/
theorem commandRegistersHold : Obligations.CommandRegistersHold := by
  intro s t r h
  rcases (step_effect h).command with ⟨reset, -⟩ | ⟨idle, q, entered, -⟩ | kept
  · simp [r] at reset
  · exact .inr ⟨by simpa using idle, q, entered⟩
  · exact .inl (by simpa using kept)

/-- The writers of `cnt` and `buf` (R24, R31). -/
theorem Effect.countAndBuffer {u t : State} (k : Effect u t) (r : u.port.rst = false) :
    ((u.st = .idle → t.st = .idle) ∧ t.cnt = u.cnt ∧ t.buf = u.buf) ∨
    (u.st = .idle ∧ u.port.start = true ∧ t.cnt = 0#8 ∧ (t.hop ≠ hopWritePage → t.buf = u.buf)) ∨
    (u.st = .ackReceived ∧ u.hop = hopReadData ∧ t.st = .ackReceived ∧ u.cnt < t.cnt) := by
  cases k with
  | reset reset => simp [r] at reset
  | wait _ => exact .inl ⟨id, rfl, rfl⟩
  | start h q i f l _ | startFails h q i f l _ _ _ =>
    exact .inr (.inl ⟨h, q, rfl, fun hop => by simp [StartFields.latched, startFields_payload_nil l hop]⟩)
  | advance target p c => exact .inl ⟨fun h => absurd h (State.st_ne_of_busy p.busy).1, rfl, rfl⟩
  | fails busy c e _ => exact .inl ⟨fun h => absurd h (State.st_ne_of_busy busy).1, rfl, rfl⟩
  | wrongByte hs => exact .inl ⟨fun h => by simp [h] at hs, rfl, rfl⟩
  | store hs o lt c bytes ne le =>
    have counted : ((u.withChannel c).storeReceived bytes).cnt.toNat = u.cnt.toNat + bytes.length :=
      State.storeReceived_cnt_toNat (Nat.le_of_lt lt) le
    have some_byte := List.length_pos_iff.2 ne
    exact .inr (.inr ⟨hs, o, hs, BitVec.lt_def.2 (by omega)⟩)
  | hostReturn _ => exact .inl ⟨fun _ => rfl, rfl, rfl⟩

/-- Settles O50: the writers of `cnt` and `buf`. -/
theorem countAndBufferWriters : Obligations.CountAndBufferWriters := by
  intro s t r h
  have writers := (step_effect h).countAndBuffer r
  simpa [hopWritePage, hopReadData] using writers

/-- Only a `HandshakeError` writes the two bytes of the record (R33). -/
theorem State.raise_keeps_bytes (s : State) {e : Error} (k : e.ofChannel) :
    (s.raise e).errExp = s.errExp ∧ (s.raise e).errAct = s.errAct := by
  cases e with
  | handshake => exact absurd rfl k
  | transport | readTimeout | shortWrite => exact ⟨rfl, rfl⟩

/-- The writers of `err` (R32, R35). -/
theorem Effect.errorKind {u t : State} (k : Effect u t) (r : u.port.rst = false) :
    ((u.st = .idle → t.st = .idle) ∧ t.err = u.err) ∨
    (u.st = .idle ∧ u.port.start = true ∧ t.st = .frameSent ∧ t.err = .noError) ∨
    ((u.st = .idle → u.port.start = true) ∧ u.st ≠ .failed ∧ t.st = .failed ∧ t.err ≠ .noError) := by
  cases k with
  | reset reset => simp [r] at reset
  | wait _ => exact .inl ⟨id, rfl⟩
  | start h q => exact .inr (.inl ⟨h, q, rfl, rfl⟩)
  | startFails h q _ _ _ _ e => exact .inr (.inr ⟨fun _ => q, by simp [h], rfl, e.kind_ne_noError⟩)
  | advance target p c => exact .inl ⟨fun h => absurd h (State.st_ne_of_busy p.busy).1, rfl⟩
  | fails busy c e =>
    obtain ⟨idle, failed⟩ := State.st_ne_of_busy busy
    exact .inr (.inr ⟨fun h => absurd h idle, failed, rfl, e.kind_ne_noError⟩)
  | wrongByte hs _ expected actual =>
    exact .inr (.inr ⟨fun h => by simp [h] at hs, fun h => by simp [h] at hs, rfl,
      (Error.handshake expected actual).kind_ne_noError⟩)
  | store hs => exact .inl ⟨fun h => by simp [h] at hs, rfl⟩
  | hostReturn _ => exact .inl ⟨fun _ => rfl, rfl⟩

/-- The writers of `err_exp` and `err_act` (R33). -/
theorem Effect.errorBytes {u t : State} (k : Effect u t) (r : u.port.rst = false) :
    (t.errExp = u.errExp ∧ t.errAct = u.errAct) ∨
    ((u.st = .ackAwaited ∨ u.st = .completionAwaited) ∧ t.st = .failed ∧ t.err = .handshake) := by
  cases k with
  | reset reset => simp [r] at reset
  | startFails _ _ _ f _ c e k => exact .inl (((f.latched u).withChannel c).raise_keeps_bytes k)
  | fails _ c e k => exact .inl ((u.withChannel c).raise_keeps_bytes k)
  | wrongByte hs => exact .inr ⟨hs, rfl, rfl⟩
  | wait | start | advance | store | hostReturn => exact .inl ⟨rfl, rfl⟩

/-- Settles O51: the writers of the error kind and those of its two bytes. -/
theorem errorRecordWriters : Obligations.ErrorRecordWriters := by
  intro s t r h
  have effect := step_effect h
  have kind := effect.errorKind r
  have bytes := effect.errorBytes r
  simp only [State.sample_st, State.sample_err, State.sample_errExp, State.sample_errAct] at kind bytes
  exact ⟨kind, bytes⟩

end Sys2Proof.Machine
end

section
/-! PROOFS. No state crosses operations (R21, R65): two machines that differ only in what earlier operations left behind run
in step. A `Start` overwrites every register but the buffer and the two bytes of the error record, and of these an operation
reads only what it has written itself. -/

namespace Sys2Proof.Machine

open Sys2Proof

/-! ## What an operation finds and does not overwrite at its `Start` -/

/-- The registers that a `Start` does not overwrite whole: the buffer, and the bytes of a `HandshakeError`. -/
structure Past where
  buf : Memory
  errExp : Byte
  errAct : Byte

/-- The state with another past. -/
def State.withPast (s : State) (p : Past) : State :=
  { s with buf := p.buf, errExp := p.errExp, errAct := p.errAct }

@[simp] theorem State.withPast_st (s : State) (p : Past) : (s.withPast p).st = s.st := rfl
@[simp] theorem State.withPast_hop (s : State) (p : Past) : (s.withPast p).hop = s.hop := rfl
@[simp] theorem State.withPast_port (s : State) (p : Past) : (s.withPast p).port = s.port := rfl

theorem State.withPast_sample (s : State) (p : Past) : (s.withPast p).sample = s.sample.withPast p := by
  cases h : s.script <;> simp [State.sample, State.withPast, h]

theorem State.afterWrite_record_withPast (s : State) (p : Past) (x : Transaction) :
    ∃ c, s.afterWrite.record x = s.withChannel c ∧ (s.withPast p).afterWrite.record x = (s.withChannel c).withPast p := by
  cases h : s.writeAnswers <;> simp only [State.afterWrite, State.withPast, h] <;> exact ⟨⟨_, _, _, _⟩, rfl, rfl⟩

theorem State.afterRead_record_withPast (s : State) (p : Past) (x : Transaction) :
    ∃ c, s.afterRead.record x = s.withChannel c ∧ (s.withPast p).afterRead.record x = (s.withChannel c).withPast p := by
  cases h : s.readAnswers <;> simp only [State.afterRead, State.withPast, h] <;> exact ⟨⟨_, _, _, _⟩, rfl, rfl⟩

/-- How many entries of the buffer the operation itself has written, from 0 up (R30, R31). -/
def State.written (s : State) : Nat :=
  if s.hop = hopWritePage then s.len else if s.hop = hopReadData then s.cnt.toNat else 0

theorem State.written_writePage {s : State} (h : s.hop = hopWritePage) : s.written = s.len := by
  simp [State.written, h]

theorem State.written_readData {s : State} (h : s.hop = hopReadData) : s.written = s.cnt.toNat := by
  simp [State.written, h, hopReadData, hopWritePage]

/-- Another buffer holds what the operation has written. -/
abbrev State.AgreesWith (s : State) (b : Memory) : Prop := ∀ i < s.written, s.buf.read i = b.read i

theorem State.payloadBytes_withPast {s : State} {p : Past} (agree : s.AgreesWith p.buf) (whole : s.written = s.len) :
    (s.withPast p).payloadBytes = s.payloadBytes :=
  (Memory.readRange_congr fun i _ hi => agree i (by rwa [whole, ← Nat.zero_add s.len])).symm

/-! ## Twins -/

/-- Two states that differ in nothing the operation in progress will read: both in `Idle` with the same outside, or in the
same operation with another past. -/
inductive Twin : State → State → Prop
  | idle {s t : State} (hs : s.st = .idle) (ht : t.st = .idle) (o : s.sameOutside t) : Twin s t
  | running {s : State} (p : Past) (active : s.st ≠ .idle) (agree : s.AgreesWith p.buf)
      (record : s.st = .failed → s.err = .handshake → p.errExp = s.errExp ∧ p.errAct = s.errAct) : Twin s (s.withPast p)

/-- Two outcomes that stop alike or go on as twins. -/
inductive Linked : Host.Outcome State Fault Refusal → Host.Outcome State Fault Refusal → Prop
  | next {s t : State} (h : Twin s t) : Linked (.next s) (.next t)
  | fault (r : Fault) : Linked (.fault r) (.fault r)
  | refused (r : Refusal) : Linked (.refused r) (.refused r)

theorem Twin.enter {s : State} {p : Past} (agree : s.AgreesWith p.buf) {target : St} (active : target ≠ .idle)
    (ok : target ≠ .failed) : Twin (s.enter target) ((s.withPast p).enter target) :=
  .running (s := s.enter target) p active agree fun h => absurd h ok

theorem Twin.raise {s : State} {p : Past} (agree : s.AgreesWith p.buf) (e : Error) :
    Twin (s.raise e) ((s.withPast p).raise e) := by
  cases e with
  | handshake expected actual =>
    exact .running (s := s.raise (.handshake expected actual)) ⟨p.buf, expected, actual⟩ nofun agree
      fun _ _ => ⟨rfl, rfl⟩
  | transport => exact .running (s := s.raise .transport) p nofun agree nofun
  | readTimeout => exact .running (s := s.raise .readTimeout) p nofun agree nofun
  | shortWrite => exact .running (s := s.raise .shortWrite) p nofun agree nofun

theorem Linked.onAnswer {α : Type} {answer : Option α} {k k' : α → State}
    (h : ∀ a, answer = some a → Twin (k a) (k' a)) : Linked (onAnswer answer k) (onAnswer answer k') := by
  cases answer with
  | none => exact .refused _
  | some a => exact .next (h a rfl)

/-! ## The transactions of twins -/

theorem Linked.write {s : State} {p : Past} (agree : s.AgreesWith p.buf) (data : List Byte) (k : Nat) {target : St}
    (active : target ≠ .idle) (ok : target ≠ .failed) :
    Linked (Machine.onAnswer (s.writeAnswer k) fun a => (s.afterWrite.record (.write data a)).afterWriteAll a k target)
      (Machine.onAnswer ((s.withPast p).writeAnswer k) fun a =>
        ((s.withPast p).afterWrite.record (.write data a)).afterWriteAll a k target) := by
  refine Linked.onAnswer fun a _ => ?_
  obtain ⟨c, e, e'⟩ := s.afterWrite_record_withPast p (.write data a)
  rw [e, e']
  have agree : (s.withChannel c).AgreesWith p.buf := agree
  unfold State.afterWriteAll
  split
  · exact .raise agree _
  · split
    · exact .raise agree _
    · exact .enter agree active ok

theorem Twin.compareByte {s : State} {p : Past} (agree : s.AgreesWith p.buf) (expected actual : Byte) {target : St}
    (active : target ≠ .idle) (ok : target ≠ .failed) :
    Twin (s.compareByte expected actual target) ((s.withPast p).compareByte expected actual target) := by
  unfold State.compareByte
  split
  · exact .enter agree active ok
  · exact .raise agree _

theorem Linked.marker {s : State} {p : Past} (agree : s.AgreesWith p.buf)
    (h : s.st = .ackAwaited ∨ s.st = .completionAwaited) :
    Linked s.fetchMarker.run (s.withPast p).fetchMarker.run := by
  rw [State.fetchMarker_run, State.fetchMarker_run]
  refine Linked.onAnswer fun a _ => ?_
  obtain ⟨c, e, e'⟩ := s.afterRead_record_withPast p (.read 1 a)
  rw [e, e']
  have agree : (s.withChannel c).AgreesWith p.buf := agree
  unfold State.afterMarker
  split
  · exact .raise agree _
  · split
    · exact .raise agree _
    · rename_i b _ _
      rcases h with h | h
      · rw [State.receiveByte_ackAwaited (s := s.withChannel c) h,
          State.receiveByte_ackAwaited (s := (s.withChannel c).withPast p) h]
        exact .compareByte agree _ _ nofun nofun
      · rw [State.receiveByte_completionAwaited (s := s.withChannel c) h,
          State.receiveByte_completionAwaited (s := (s.withChannel c).withPast p) h]
        exact .compareByte agree _ _ nofun nofun

/-- The bytes of a payload read are stored on top of what both buffers already share. -/
theorem State.AgreesWith.store {s : State} {b : Memory} {bytes : List Byte} (agree : s.AgreesWith b)
    (hop : s.hop = hopReadData) (lt : s.cnt < s.op0) (le : bytes.length ≤ s.missing) (hs : s.BufCanonical)
    (hb : b.wf = true) : (s.storeReceived bytes).AgreesWith (b.writeRange s.cnt.toNat bytes) := by
  have counted := State.storeReceived_cnt_toNat (Nat.le_of_lt lt) le
  have fits := (State.store_fits lt le).trans s.op0_le_depth
  intro i hi
  rw [State.written_readData (s := s.storeReceived bytes) hop, counted] at hi
  rw [State.AgreesWith, State.written_readData hop] at agree
  rw [State.storeReceived_buf, Memory.read_writeRange hs _ _ fits, Memory.read_writeRange hb _ _ fits]
  split
  · rfl
  · exact agree i (by omega)

theorem Linked.payloadRead {s : State} {p : Past} (agree : s.AgreesWith p.buf) (h : s.st = .ackReceived)
    (hop : s.hop = hopReadData) (lt : s.cnt < s.op0) (hs : s.BufCanonical) (hb : p.buf.wf = true) :
    Linked s.payloadRead (s.withPast p).payloadRead := by
  rw [State.payloadRead_eq, State.payloadRead_eq]
  refine Linked.onAnswer fun a answered => ?_
  obtain ⟨c, e, e'⟩ := s.afterRead_record_withPast p (.read s.missing a)
  change Twin _ (((s.withPast p).afterRead.record (.read s.missing a)).afterPayloadRead a)
  rw [e, e']
  have agree : (s.withChannel c).AgreesWith p.buf := agree
  unfold State.afterPayloadRead
  split
  · exact .raise agree _
  · split
    · exact .raise agree _
    · have stored := agree.store hop lt (State.readAnswer_le answered) hs hb
      exact .running (s := (s.withChannel c).storeReceived a.bytes) ⟨_, p.errExp, p.errAct⟩ (by simp [h]) stored
        (by simp [h])

/-! ## The step out of `AckReceived`, by the operation -/

theorem State.payloadPhase_sendCommand {u : State} (hop : u.hop = hopSendCommand) :
    u.payloadPhase = .next (u.enter .done) := if_pos hop

theorem State.payloadPhase_writePage {u : State} (hop : u.hop = hopWritePage) : u.payloadPhase = u.payloadWrite := by
  simp [State.payloadPhase, hop, hopSendCommand, hopWritePage]

theorem State.payloadPhase_readMissing {u : State} (hop : u.hop = hopReadData) (lt : u.cnt < u.op0) :
    u.payloadPhase = u.payloadRead := by
  simp [State.payloadPhase, hop, hopSendCommand, hopWritePage, hopReadData, lt]

theorem State.payloadPhase_readComplete {u : State} (hop : u.hop = hopReadData) (eq : u.cnt = u.op0) :
    u.payloadPhase = .next (u.enter .payloadTransferred) := by
  simp [State.payloadPhase, hop, hopSendCommand, hopWritePage, hopReadData, eq]

/-- Outside R41 no guard of the payload phase holds (R165). -/
theorem State.payloadPhase_unguarded {u : State} (send : u.hop ≠ hopSendCommand) (page : u.hop ≠ hopWritePage)
    (read : u.hop = hopReadData → ¬ u.cnt < u.op0 ∧ u.cnt ≠ u.op0) : u.payloadPhase = .fault .noControllerStep := by
  by_cases hop : u.hop = hopReadData
  · simp [State.payloadPhase, hop, read hop, hopSendCommand, hopWritePage, hopReadData]
  · simp [State.payloadPhase, send, page, hop]

/-- The step out of `AckReceived` sends or stores alike. -/
theorem Linked.payloadPhase {s : State} {p : Past} (agree : s.AgreesWith p.buf) (h : s.st = .ackReceived)
    (hs : s.BufCanonical) (hb : p.buf.wf = true) : Linked s.payloadPhase (s.withPast p).payloadPhase := by
  by_cases send : s.hop = hopSendCommand
  · rw [State.payloadPhase_sendCommand send, State.payloadPhase_sendCommand (u := s.withPast p) send]
    exact .next (.enter agree nofun nofun)
  by_cases page : s.hop = hopWritePage
  · have sent := State.payloadBytes_withPast agree (State.written_writePage page)
    rw [State.payloadPhase_writePage page, State.payloadPhase_writePage (u := s.withPast p) page,
      State.payloadWrite, State.payloadWrite, sent, State.writeAll_eq, State.writeAll_eq]
    exact .write agree _ _ nofun nofun
  by_cases more : s.hop = hopReadData ∧ s.cnt < s.op0
  · obtain ⟨read, lt⟩ := more
    rw [State.payloadPhase_readMissing read lt, State.payloadPhase_readMissing (u := s.withPast p) read lt]
    exact .payloadRead agree h read lt hs hb
  by_cases complete : s.hop = hopReadData ∧ s.cnt = s.op0
  · obtain ⟨read, eq⟩ := complete
    rw [State.payloadPhase_readComplete read eq, State.payloadPhase_readComplete (u := s.withPast p) read eq]
    exact .next (.enter agree nofun nofun)
  · have unguarded (read : s.hop = hopReadData) : ¬ s.cnt < s.op0 ∧ s.cnt ≠ s.op0 :=
      ⟨fun lt => more ⟨read, lt⟩, fun eq => complete ⟨read, eq⟩⟩
    rw [State.payloadPhase_unguarded send page unguarded,
      State.payloadPhase_unguarded (u := s.withPast p) send page unguarded]
    exact .fault _

/-! ## What a step fetches, by the state -/

theorem State.fetch_reset {u : State} (r : u.port.rst = true) : u.fetch = .other (.next u.resetEvent) := if_pos r

theorem State.fetch_idle {u : State} (r : u.port.rst = false) (h : u.st = .idle) : u.fetch = u.fetchStart := by
  simp [State.fetch, r, h]

theorem State.fetch_frameSent {u : State} (r : u.port.rst = false) (h : u.st = .frameSent) :
    u.fetch = .other (.next (u.enter .ackAwaited)) := by
  simp [State.fetch, r, h]

theorem State.fetch_handshakeWait {u : State} (r : u.port.rst = false)
    (h : u.st = .ackAwaited ∨ u.st = .completionAwaited) : u.fetch = u.fetchMarker := by
  rcases h with h | h <;> simp [State.fetch, r, h]

theorem State.fetch_ackReceived {u : State} (r : u.port.rst = false) (h : u.st = .ackReceived) :
    u.fetch = .other u.payloadPhase := by
  simp [State.fetch, r, h]

theorem State.fetch_payloadTransferred {u : State} (r : u.port.rst = false) (h : u.st = .payloadTransferred) :
    u.fetch = .other (.next (u.enter .completionAwaited)) := by
  simp [State.fetch, r, h]

/-- In `Done` and `Failed` only `Return` does something (R163, R164, R167). -/
theorem State.fetch_ended {u : State} (r : u.port.rst = false) (h : u.st = .done ∨ u.st = .failed) :
    u.fetch = .other (.next (if u.port.ret then u.enter .idle else u)) := by
  rcases h with h | h <;> simp [State.fetch, State.awaitReturn, State.hostReturn, r, h]

/-! ## The step of twins -/

/-- In the middle of an operation, or at its end, the past is not read. -/
theorem Linked.running {s : State} {p : Past} (active : s.st ≠ .idle) (agree : s.AgreesWith p.buf)
    (record : s.st = .failed → s.err = .handshake → p.errExp = s.errExp ∧ p.errAct = s.errAct)
    (hs : s.BufCanonical) (hb : p.buf.wf = true) : Linked s.fetch.run (s.withPast p).fetch.run := by
  have ended (r : s.port.rst = false) (h : s.st = .done ∨ s.st = .failed) :
      Linked s.fetch.run (s.withPast p).fetch.run := by
    rw [State.fetch_ended r h, State.fetch_ended (u := s.withPast p) r h, State.withPast_port]
    split
    · exact .next (.idle rfl rfl ⟨rfl, rfl, rfl, rfl, rfl⟩)
    · exact .next (.running p active agree record)
  have wait (r : s.port.rst = false) (h : s.st = .ackAwaited ∨ s.st = .completionAwaited) :
      Linked s.fetch.run (s.withPast p).fetch.run := by
    rw [State.fetch_handshakeWait r h, State.fetch_handshakeWait (u := s.withPast p) r h]
    exact .marker agree h
  cases r : s.port.rst with
  | true =>
    rw [State.fetch_reset r, State.fetch_reset (u := s.withPast p) r]
    exact .next (.idle rfl rfl ⟨rfl, rfl, rfl, rfl, rfl⟩)
  | false =>
    cases h : s.st with
    | idle => exact absurd h active
    | frameSent =>
      rw [State.fetch_frameSent r h, State.fetch_frameSent (u := s.withPast p) r h]
      exact .next (.enter agree nofun nofun)
    | ackAwaited => exact wait r (.inl h)
    | ackReceived =>
      rw [State.fetch_ackReceived r h, State.fetch_ackReceived (u := s.withPast p) r h]
      exact .payloadPhase agree h hs hb
    | payloadTransferred =>
      rw [State.fetch_payloadTransferred r h, State.fetch_payloadTransferred (u := s.withPast p) r h]
      exact .next (.enter agree nofun nofun)
    | completionAwaited => exact wait r (.inr h)
    | done => exact ended r (.inl h)
    | failed => exact ended r (.inr h)

/-! ## The `Start` of twins -/

/-- What an instruction latches is presented by the host alone. -/
theorem startFields_congr (i : Instr) {s t : State} (port : s.port = t.port) : i.startFields s = i.startFields t := by
  cases i <;> simp only [Instr.startFields, port]

/-- After a `Start` the past is all that two blocks in `Idle` with the same outside differ in (R151). -/
theorem StartFields.latched_withPast (f : StartFields) {s t : State} (st : s.st = t.st) (port : s.port = t.port)
    (o : s.sameOutside t) :
    f.latched t = (f.latched s).withPast ⟨t.buf.writeRange 0 f.payload, t.errExp, t.errAct⟩ := by
  obtain ⟨history, script, writes, reads, free⟩ := o
  simp [StartFields.latched, State.withPast, *]

/-- A `Start` has written in both buffers what its operation will send. -/
theorem StartFields.latched_agrees {i : Instr} {s : State} {f : StartFields} (l : i.startFields s = some f)
    {b : Memory} (hs : s.BufCanonical) (hb : b.wf = true) : (f.latched s).AgreesWith (b.writeRange 0 f.payload) := by
  have fits : 0 + f.payload.length ≤ Config.bufDepth := by simpa using startFields_payload_le l
  have written : (f.latched s).written ≤ f.payload.length := by
    rcases startFields_shape l with ⟨hop, -⟩ | ⟨hop, -, length⟩ | ⟨hop, -⟩
    · simp [State.written, StartFields.latched, hop, hopSendCommand, hopWritePage, hopReadData]
    · rw [State.written_writePage (s := f.latched s) hop, length]
      exact le_rfl
    · rw [State.written_readData (s := f.latched s) hop]
      exact Nat.zero_le _
  intro i hi
  change (s.buf.writeRange 0 f.payload).read i = _
  have inside : 0 ≤ i ∧ i < 0 + f.payload.length := by omega
  rw [Memory.read_writeRange hs _ _ fits, Memory.read_writeRange hb _ _ fits, dif_pos inside, dif_pos inside]

/-- In `Idle` every register is overwritten or is the past. -/
theorem Linked.start {s t : State} (hs : s.st = .idle) (ht : t.st = .idle) (port : s.port = t.port)
    (o : s.sameOutside t) (cs : s.BufCanonical) (ct : t.BufCanonical) {i : Instr} (d : decodePort s.port = .ok i) :
    Linked (exec i s) (exec i t) := by
  have same := startFields_congr i port
  cases l : i.startFields s with
  | none =>
    have refuses {u : State} (d : decodePort u.port = .ok i) (l : i.startFields u = none) :
        exec i u = .refused .payloadLengthMismatch := by
      rcases decodePort_startFields d with ⟨f, l'⟩ | e
      · rw [l] at l'
        cases l'
      · exact e
    rw [refuses d l, refuses (port ▸ d) (same ▸ l)]
    exact .refused _
  | some f =>
    have answers : t.writeAnswer 4 = (f.latched t).writeAnswer 4 := rfl
    rw [exec_start_idle l hs, exec_start_idle (same ▸ l) ht, answers,
      f.latched_withPast (hs.trans ht.symm) port o]
    have agree := StartFields.latched_agrees l cs ct
    exact Linked.write (p := ⟨_, t.errExp, t.errAct⟩) agree f.frame 4 nofun nofun

theorem Linked.idle {s t : State} (hs : s.st = .idle) (ht : t.st = .idle) (port : s.port = t.port)
    (o : s.sameOutside t) (cs : s.BufCanonical) (ct : t.BufCanonical) : Linked s.fetch.run t.fetch.run := by
  cases r : s.port.rst with
  | true =>
    obtain ⟨history, script, writes, reads, free⟩ := o
    rw [State.fetch_reset r, State.fetch_reset (port ▸ r)]
    exact .next (.idle rfl rfl ⟨history, script, writes, reads, congrArg (· + 1) free⟩)
  | false =>
    rw [State.fetch_idle r hs, State.fetch_idle (port ▸ r) ht]
    unfold State.fetchStart
    rw [← port]
    split
    · split
      · exact .start hs ht port o cs ct ‹_›
      · exact .refused _
      · exact .next (.idle hs ht o)
    · exact .next (.idle hs ht o)

/-- Twins with canonical buffers step to twins, or stop alike. -/
theorem Twin.step {s t : State} (h : Twin s t) (cs : s.BufCanonical) (ct : t.BufCanonical) :
    Linked (step s) (step t) := by
  unfold Machine.step
  have cs : s.sample.BufCanonical := by simpa [State.BufCanonical] using cs
  have ct : t.sample.BufCanonical := by simpa [State.BufCanonical] using ct
  cases h with
  | idle hs ht o =>
    obtain ⟨history, script, writes, reads, free⟩ := o
    exact .idle (by simpa using hs) (by simpa using ht) (by simp [State.sample_port, script])
      ⟨by simpa using history, by simp [State.sample_script, script], by simpa using writes, by simpa using reads,
        by simpa using free⟩ cs ct
  | running p active agree record =>
    rw [State.withPast_sample] at ct ⊢
    refine .running (by simpa using active) ?_ (by simpa using record) cs ct
    simpa [State.AgreesWith, State.written, State.len] using agree

/-! ## What twins show -/

/-- Twins that meet R41 show the same: `Done` of a `ReadData` has written all that is read, and `Failed` its record. -/
theorem Twin.observe {s t : State} (h : Twin s t) (inv : s.Inv) : s.observe = t.observe := by
  cases h with
  | idle hs ht o =>
    obtain ⟨history, -⟩ := o
    simp [State.observe, State.rdata, State.errorRecord, hs, ht, history]
  | running p active agree record =>
    have rdata : (s.withPast p).rdata = s.rdata := by
      by_cases ended : s.st = .done ∧ s.hop = hopReadData
      · obtain ⟨-, -, -, complete, -⟩ := inv
        have whole : s.written = s.len := by
          rw [State.written_readData ended.2, complete (.inr (.inr ended.1)) ended.2]
          rfl
        simp [State.rdata, ended, State.payloadBytes_withPast agree whole]
      · exact (if_neg ended).trans (if_neg ended).symm
    have errorRecord : (s.withPast p).errorRecord = s.errorRecord := by
      by_cases failed : s.st = .failed
      · cases kind : s.err with
        | handshake =>
          obtain ⟨e1, e2⟩ := record failed kind
          simp [State.errorRecord, State.withPast, failed, kind, e1, e2]
        | noError | transport | readTimeout | shortWrite => simp [State.errorRecord, State.withPast, failed, kind]
      · simp [State.errorRecord, failed]
    unfold State.observe
    rw [rdata, errorRecord]
    rfl

/-- Twins show the same after any number of steps. -/
theorem Twin.sameShown (n : Nat) {s t : State} (h : Twin s t) (inv : s.Inv) (cs : s.BufCanonical)
    (ct : t.BufCanonical) : Machine.sameShown (steps n s) (steps n t) := by
  induction n generalizing s t with
  | zero => exact h.observe inv
  | succ n ih =>
    have linked := h.step cs ct
    rw [steps_succ, steps_succ]
    generalize es : Machine.step s = o at linked
    generalize et : Machine.step t = o' at linked
    cases linked with
    | next twin =>
      exact ih twin (controlInvariantIsKept _ _ inv es) (bufferStaysCanonical _ _ cs es)
        (bufferStaysCanonical _ _ ct et)
    | fault r => rfl
    | refused r => rfl

/-- Settles O60: two blocks in `Idle` with the same outside are twins, and twins show the same. -/
theorem operationsAreIndependentOfThePast : Obligations.OperationsAreIndependentOfThePast :=
  fun n _ _ hs ht o cs ct => (Twin.idle hs ht o).sameShown n (State.inv_of_idle hs) cs ct

end Sys2Proof.Machine
end

section
/-! PROOFS. What decodes is an encoding of what it decodes to, and what stands for no row is rejected (R37, R83, R90 to R92,
R94). -/

namespace Sys2Proof

/-! ## The frame -/

/-- The frame decoder loses nothing: a frame is the encoding of its command (R94, R108). -/
theorem encodeFrame_of_decodeFrame {bytes : List Byte} {c : Command} (h : decodeFrame bytes = some c) :
    bytes = encodeFrame c.opcode c.address c.operand0 := by
  unfold decodeFrame at h
  split at h
  · cases h
    simp [encodeFrame]
  · cases h

/-- A frame that is a row has a command, and the opcode of the command is the row's (R88). -/
theorem decodeCmd_ok {bytes : List Byte} {i : Instr} (h : decodeCmd bytes = .ok i) :
    ∃ c : Command, bytes = encodeFrame c.opcode c.address c.operand0 ∧
      ((c.opcode = opSuccess ∧ i = .success c.address c.operand0) ∨
        (c.opcode = opWrite ∧ i = .write c.address c.operand0) ∨
        (c.opcode = opWritePage ∧ i = .writePage c.address c.operand0) ∨
        (c.opcode = opRead ∧ i = .read c.address c.operand0)) := by
  unfold decodeCmd at h
  split at h
  · cases h
  · rename_i c hc
    refine ⟨c, encodeFrame_of_decodeFrame hc, ?_⟩
    split at h
    · cases h; exact .inl ⟨‹_›, rfl⟩
    split at h
    · cases h; exact .inr (.inl ⟨‹_›, rfl⟩)
    split at h
    · cases h; exact .inr (.inr (.inl ⟨‹_›, rfl⟩))
    split at h
    · cases h; exact .inr (.inr (.inr ⟨‹_›, rfl⟩))
    · cases h

theorem encode_of_decodeCmd {bytes : List Byte} {i : Instr} (h : decodeCmd bytes = .ok i) :
    i.WellFormed ∧ encode i = some (.frame bytes) := by
  obtain ⟨c, rfl, ⟨o, rfl⟩ | ⟨o, rfl⟩ | ⟨o, rfl⟩ | ⟨o, rfl⟩⟩ := decodeCmd_ok h <;> rw [o] <;> exact ⟨rfl, rfl⟩

/-! ## The handshake byte -/

theorem encode_of_decodeHs {bytes : List Byte} {i : Instr} (h : decodeHs bytes = .ok i) :
    i.WellFormed ∧ encode i = some (.handshake bytes) := by
  match bytes with
  | [] | _ :: _ :: _ => cases h
  | [b] =>
    rcases decodeHs_cases b with ⟨rfl, e⟩ | ⟨rfl, e⟩ | ⟨-, -, e⟩ <;> rw [e] at h <;> cases h <;> exact ⟨rfl, rfl⟩

/-! ## The host's signals -/

/-- Presented signals are encoded again with the operands that their operation uses (R37, R87). -/
theorem encode_of_decodeHop {p : HostPort} {i : Instr} (h : decodeHop p = .ok i) :
    i.WellFormed ∧ ∃ q : HostPort, encode i = some (.host q) ∧ q.op = p.op ∧ q.addr = p.addr ∧ q.op0 = p.op0 ∧
      (p.op = hopSendCommand → q.opcode = p.opcode) ∧ (p.op = hopWritePage → q.payload = p.payload) := by
  rcases decodeHop_cases h with ⟨op, rfl⟩ | ⟨op, fits, rfl⟩ | ⟨op, rfl⟩
  · exact ⟨rfl, _, rfl, op.symm, rfl, rfl, fun _ => rfl, fun page => absurd (op.symm.trans page) (by decide)⟩
  · have le : p.payload.length ≤ 255 := fits.trans_le (Nat.le_of_lt_succ p.op0.isLt)
    have operand : payloadOperand p.payload = some p.op0 := by
      rw [payloadOperand_of_le le, fits, BitVec.ofNat_toNat, BitVec.setWidth_eq]
    refine ⟨decide_eq_true le, startPort hopWritePage 0 p.addr p.op0 p.payload, ?_, op.symm, rfl, rfl,
      fun send => absurd (op.symm.trans send) (by decide), fun _ => rfl⟩
    simp only [encode, operand]
  · exact ⟨rfl, _, rfl, op.symm, rfl, rfl, fun send => absurd (op.symm.trans send) (by decide),
      fun page => absurd (op.symm.trans page) (by decide)⟩

/-- Settles O11: each of the three decoders answers only what its encoding came from. -/
theorem encodeOfDecode : Obligations.EncodeOfDecode :=
  ⟨fun _ _ => encode_of_decodeCmd, fun _ _ => encode_of_decodeHs, fun _ _ => encode_of_decodeHop⟩

/-! ## What is no row -/

/-- An opcode above 3 is none of the four (R90). -/
theorem decodeCmd_reserved {o : Byte} (h : 3#8 < o) (a : Addr) (p : Byte) :
    decodeCmd (encodeFrame o a p) = .error (.reservedOpcode o) := by
  have ne {x : Byte} (hx : x ≤ 3#8) : o ≠ x := by
    rintro rfl
    exact BitVec.not_lt.2 hx h
  rw [decodeCmd_encodeFrame, if_neg (ne (by decide)), if_neg (ne (by decide)), if_neg (ne (by decide)),
    if_neg (ne (by decide))]

theorem decodeHs_unknown {b : Byte} (ack : b ≠ ackValue) (success : b ≠ successValue) :
    decodeHs [b] = .error (.unknownMarker b) := by
  rcases decodeHs_cases b with ⟨e, -⟩ | ⟨e, -⟩ | ⟨-, -, e⟩
  · exact absurd e ack
  · exact absurd e success
  · exact e

theorem decodeHop_reserved {p : HostPort} (h : p.op = 3#2) : decodeHop p = .error .reservedSelector := by
  simp [decodeHop, h, hopSendCommand, hopWritePage, hopReadData]

theorem decodeHop_payloadLength {p : HostPort} (h : p.op = hopWritePage) (length : p.payload.length ≠ p.op0.toNat) :
    decodeHop p = .error .payloadLength := by
  simp [decodeHop, HostPort.payloadFits, h, length, hopSendCommand, hopWritePage]

/-- Settles O12: the four encodings that no row has. -/
theorem reservedEncodingsAreRejected : Obligations.ReservedEncodingsAreRejected :=
  ⟨fun _ a p h => decodeCmd_reserved h a p, fun _ => decodeHs_unknown, fun _ => decodeHop_reserved,
    fun _ => decodeHop_payloadLength⟩

end Sys2Proof
end

section
/-! PROOFS. The payload that a `WritePage` latches (R30, R71), the outputs (R31 to R38) and the state after reset (R40). -/

namespace Sys2Proof.Machine

open Sys2Proof

/-! ## The payload of a `WritePage` -/

/-- Settles O25: the buffer is the old one with the payload written from 0 up, and `op0` is the payload's length. -/
theorem writePageLatchesItsPayload : Obligations.WritePageLatchesItsPayload := by
  intro a payload s le canonical idle accepted
  have fields : Instr.startFields (.writePageOp a payload) s =
      some ⟨1#2, 2#8, a, BitVec.ofNat 8 payload.length, payload⟩ := if_pos le
  have ran := exec_start_idle fields idle
  rw [accepted, onAnswer_some] at ran
  refine ⟨_, ran, ?_⟩
  generalize ht : State.afterWriteAll _ _ _ _ = t
  have buf : t.buf = s.buf.writeRange 0 payload := by
    rw [← ht]; simp [State.afterWriteAll, StartFields.latched]
  have op0 : t.op0.toNat = payload.length := by
    rw [← payloadOperand_toNat (payloadOperand_of_le le), ← ht]; simp [State.afterWriteAll, StartFields.latched]
  have fits : 0 + payload.length ≤ Config.bufDepth := (Nat.zero_add _).trans_le le
  rw [State.BufCanonical, buf, op0]
  refine ⟨Memory.wf_writeRange canonical 0 payload fits, fun i h => ?_, fun i h => ?_,
    Memory.readRange_writeRange canonical 0 payload fits⟩
  · rw [Memory.read_writeRange canonical 0 payload fits, dif_pos (by omega)]
    rfl
  · rw [Memory.read_writeRange canonical 0 payload fits, dif_neg (by omega)]

/-! ## The outputs -/

/-- Settles O38: the derived outputs by the state, the codes by their tables. -/
theorem derivedOutputsAndCodes : Obligations.DerivedOutputsAndCodes :=
  ⟨fun s => ⟨s.busy_iff, decide_eq_true_iff, decide_eq_true_iff⟩, rfl, rfl⟩

theorem State.rdata_of_readDone {s : State} (h : s.st = .done) (hop : s.hop = hopReadData) :
    s.rdata = some s.payloadBytes := if_pos ⟨h, hop⟩

theorem State.rdata_of_not_readDone {s : State} (h : s.st ≠ .done ∨ s.hop ≠ hopReadData) : s.rdata = none :=
  if_neg (not_and_or.2 h)

theorem State.errorRecord_of_not_failed {s : State} (h : s.st ≠ .failed) : s.errorRecord = none := if_neg h

/-- Settles O39: the two results by the state, the error record by its kind too. -/
theorem resultsAreReadOnlyAtTheEnds : Obligations.ResultsAreReadOnlyAtTheEnds := by
  intro s
  refine ⟨State.rdata_of_readDone, State.rdata_of_not_readDone, State.errorRecord_of_not_failed, ?_, ?_, ?_, ?_⟩
  all_goals
    intro failed kind
    simp [State.errorRecord, failed, kind]

/-! ## The state after reset -/

/-- Settles O1: after reset the block is in `Idle`, where nothing is shown. -/
theorem resetStateIsIdleWithoutError : Obligations.ResetStateIsIdleWithoutError :=
  ⟨rfl, rfl, rfl, rfl, rfl, State.rdata_of_not_readDone (.inl nofun), State.errorRecord_of_not_failed nofun, rfl⟩

/-- Settles O3: in `Idle` the first three invariants ask for nothing, and an empty buffer is canonical. -/
theorem resetSatisfiesTheInvariants : Obligations.ResetSatisfiesTheInvariants :=
  ⟨State.inv_of_idle rfl, fun active => absurd rfl active, nofun, rfl⟩

end Sys2Proof.Machine
end

section
/-! PROOFS. The channel's part of a step: at most one transaction, of the kind and size its phase asks for (R54, R64, R69),
and no step at all on an answer outside the domain of R60. -/

namespace Sys2Proof.Machine

open Sys2Proof

/-! ## What the end of a transaction keeps -/

@[simp] theorem State.afterWriteAll_history (s : State) (a : WriteAnswer) (k : Nat) (target : St) :
    (s.afterWriteAll a k target).history = s.history := by
  rcases s.afterWriteAll_ends a k target with e | ⟨x, -, e⟩ <;> rw [e]
  · exact s.enter_history target
  · exact s.raise_history x

/-- However the frame write ends, the command of the frame stays latched (R70). -/
@[simp] theorem State.afterWriteAll_frame (s : State) (a : WriteAnswer) (k : Nat) (target : St) :
    (s.afterWriteAll a k target).frame = s.frame := by
  rcases s.afterWriteAll_ends a k target with e | ⟨x, -, e⟩ <;> rw [e] <;> rfl

@[simp] theorem State.receiveByte_history (s : State) (b : Byte) : (s.receiveByte b).history = s.history := by
  have compared (expected : Byte) (target : St) : (s.compareByte expected b target).history = s.history := by
    rcases s.compareByte_cases expected b target with ⟨-, e⟩ | ⟨-, e⟩ <;> rw [e] <;> rfl
  unfold State.receiveByte
  split
  · exact compared ..
  · exact compared ..
  · rfl

@[simp] theorem State.afterMarker_history (s : State) (a : ReadAnswer) : (s.afterMarker a).history = s.history := by
  rcases s.afterMarker_ends a with ⟨x, -, e⟩ | ⟨b, e⟩ <;> rw [e]
  · exact s.raise_history x
  · exact s.receiveByte_history b

@[simp] theorem State.afterPayloadRead_history (s : State) (a : ReadAnswer) :
    (s.afterPayloadRead a).history = s.history := by
  rcases s.afterPayloadRead_cases a with ⟨-, e⟩ | ⟨-, -, e⟩ | ⟨-, -, e⟩ <;> rw [e] <;> rfl

/-- The frame a `Start` sends is that of the command it latches, whatever the channel does meanwhile. -/
theorem StartFields.latched_frame (f : StartFields) (u : State) (x : Transaction) :
    ((f.latched u).afterWrite.record x).frame = f.frame := by
  simp [State.frame, StartFields.latched, StartFields.frame, encodeFrame, addrHigh, addrLow]

/-! ## The transaction of a step -/

/-- The transaction `x` that a step from `u` (the host's signals sampled) to `t` may make, by the phase it belongs to (R54),
with an answer in the domain of R60. -/
inductive Transacts (u t : State) : Transaction → Prop
  | frame (h : u.st = .idle) (q : u.port.start = true) (a : WriteAnswer) (le : a.count ≤ t.frame.length) :
      Transacts u t (.write t.frame a)
  | marker (h : u.st = .ackAwaited ∨ u.st = .completionAwaited) (a : ReadAnswer) (le : a.bytes.length ≤ 1) :
      Transacts u t (.read 1 a)
  | page (h : u.st = .ackReceived) (o : u.hop = hopWritePage) (a : WriteAnswer) (le : a.count ≤ u.payloadBytes.length) :
      Transacts u t (.write u.payloadBytes a)
  | payload (h : u.st = .ackReceived) (o : u.hop = hopReadData) (lt : u.cnt < u.op0) (a : ReadAnswer)
      (le : a.bytes.length ≤ u.missing) : Transacts u t (.read u.missing a)

/-- A step records nothing, or the one transaction of its phase. -/
theorem StepKind.history {u t : State} (k : StepKind u t) :
    t.history = u.history ∨ ∃ x, Transacts u t x ∧ t.history = u.history ++ [x] := by
  cases k with
  | reset | wait | turnToRead | commandDone | payloadDone | turnToCompletion | hostReturn => exact .inl rfl
  | start r h q i d f l a w =>
    have sent := ((f.latched u).afterWrite.record (.write f.frame a)).afterWriteAll_frame a 4 .frameSent
    rw [f.latched_frame] at sent
    have x := Transacts.frame h q a ((State.writeAnswer_le w).trans_eq (congrArg List.length sent).symm)
    rw [sent] at x
    exact .inr ⟨_, x, by simp [StartFields.latched]⟩
  | marker r h a w => exact .inr ⟨_, .marker h a (State.readAnswer_le w), by simp⟩
  | payloadWrite r h o a w =>
    rw [← State.payloadBytes_length] at w
    exact .inr ⟨_, .page h o a (State.writeAnswer_le w), by simp⟩
  | payloadRead r h o lt a w => exact .inr ⟨_, .payload h o lt a (State.readAnswer_le w), by simp⟩

theorem step_history {s t : State} (h : step s = .next t) :
    t.history = s.history ∨ ∃ x, Transacts s.sample t x ∧ t.history = s.history ++ [x] := by
  simpa only [State.sample_history] using (step_kind h).history

/-- A transaction that a step adds is the one of its phase. -/
theorem step_transacts {s t : State} {x : Transaction} (h : step s = .next t) (added : t.history = s.history ++ [x]) :
    Transacts s.sample t x := by
  rcases step_history h with same | ⟨y, transacts, e⟩
  · simp [same] at added
  · have eq : y = x := by simpa using e.symm.trans added
    exact eq ▸ transacts

/-- Settles O46: every step keeps the record, and adds at most the transaction of its phase. -/
theorem atMostOneTransactionAStep : Obligations.AtMostOneTransactionAStep := fun _ _ h =>
  (step_history h).imp_right fun ⟨x, _, e⟩ => ⟨x, e⟩

/-- Settles O47: the four phases that make a transaction. -/
theorem transactionsHaveTheirSizes : Obligations.TransactionsHaveTheirSizes := by
  intro s t x h added
  have transacts := step_transacts h added
  have sampled : s.sample.st = s.st ∧ s.sample.hop = s.hop ∧ s.sample.missing = s.op0.toNat - s.cnt.toNat ∧
      s.sample.payloadBytes = s.buf.readRange 0 s.op0.toNat := by
    simp [State.missing, State.payloadBytes, State.len]
  obtain ⟨st, hop, missing, bytes⟩ := sampled
  cases transacts with
  | frame h q a le => exact ⟨le, .inl ⟨st ▸ h, q, rfl⟩⟩
  | marker h a le => exact ⟨le, .inl ⟨st ▸ h, rfl⟩⟩
  | page h o a le => exact ⟨le, .inr ⟨st ▸ h, hop ▸ o, bytes⟩⟩
  | payload h o lt a le =>
    have missingSome : 1 ≤ s.sample.missing := Nat.sub_pos_of_lt lt
    exact ⟨le, .inr ⟨st ▸ h, hop ▸ o, missing, missingSome⟩⟩

/-! ## An answer outside the domain -/

/-- In `AckReceived` the step is the payload phase (R156 to R159). -/
theorem step_ackReceived {s : State} (r : s.noReset) (h : s.st = .ackReceived) : step s = s.sample.payloadPhase := by
  rw [step, State.fetch_ackReceived r (s.sample_st.trans h)]
  rfl

/-- Settles O24: each of the four transactions is all that its step does. -/
theorem answerOutsideTheDomainHasNoStep : Obligations.AnswerOutsideTheDomainHasNoStep := by
  refine ⟨fun i f s l idle outside => ?_, fun s r h outside => ?_, fun s r h o outside => ?_, fun s r h o lt outside => ?_⟩
  · rw [exec_start_idle l idle, outside, onAnswer_none]
  · rw [step_handshakeWait r h, State.fetchMarker_run, State.sample_readAnswer, outside, onAnswer_none]
  · have answer : s.sample.writeAnswer s.sample.payloadBytes.length = none := by
      simpa [State.payloadBytes_length, State.len] using outside
    rw [step_ackReceived r h, State.payloadPhase_writePage (s.sample_hop.trans o), State.payloadWrite,
      State.writeAll_eq, answer, onAnswer_none]
  · have answer : s.sample.readAnswer s.sample.missing = none := by simpa [State.missing] using outside
    have more : s.sample.cnt < s.sample.op0 := by simpa using lt
    rw [step_ackReceived r h, State.payloadPhase_readMissing (s.sample_hop.trans o) more, State.payloadRead_eq, answer,
      onAnswer_none]

end Sys2Proof.Machine
end

section
/-! PROOFS. The round trip of the nine rows (R81 to R84, R87), the frame as a bijection with the commands (R94, R107, R108)
and as a number (R82), and the words that the opcode table gives its rows (R88, R90). -/

namespace Sys2Proof

/-! ## Decode after encode -/

/-- A payload's operand announces its length, so the signals of a `WritePage` can be presented (R37). -/
theorem decodeHop_writePage {payload : List Byte} {n : Byte} (h : payloadOperand payload = some n) (a : Addr) :
    decodeHop (startPort hopWritePage 0 a n payload) = .ok (.writePageOp a payload) := by
  have fits : (startPort hopWritePage 0 a n payload).payloadFits = true :=
    decide_eq_true (payloadOperand_toNat h).symm
  simp only [decodeHop, fits]
  rfl

/-- Whatever has an encoding is what the encoding decodes to (R81, R83, R84). -/
theorem decode_of_encode {i : Instr} {e : Encoded} (h : encode i = some e) : decode e = .ok i := by
  cases i with
  | success a p => cases h; exact decodeCmd_encodeFrame opSuccess a p
  | write a p => cases h; exact decodeCmd_encodeFrame opWrite a p
  | writePage a p => cases h; exact decodeCmd_encodeFrame opWritePage a p
  | read a p => cases h; exact decodeCmd_encodeFrame opRead a p
  | ack => cases h; rfl
  | successHs => cases h; rfl
  | sendCommand o a p => cases h; rfl
  | readDataOp a n => cases h; rfl
  | writePageOp a payload =>
    simp only [encode] at h
    split at h
    · rename_i n operand
      cases h
      exact decodeHop_writePage operand a
    · cases h

/-- A payload that fits is encoded with its length, one that does not fit is not encoded (R109). -/
theorem encode_isSome (i : Instr) : (encode i).isSome = i.wellFormed := by
  cases i with
  | writePageOp a payload =>
    by_cases fits : payload.length ≤ Config.maxPayload
    · simp [encode, Instr.wellFormed, payloadOperand_of_le fits, fits]
    · simp [encode, Instr.wellFormed, payloadOperand_of_gt (Nat.not_le.1 fits), fits]
  | _ => rfl

/-- Settles O10: an instruction has an encoding exactly if it is well formed, and an encoding decodes to what it encodes. -/
theorem decodeOfEncode : Obligations.DecodeOfEncode := by
  refine ⟨fun i wf => ?_, fun i notWf => ?_⟩
  · obtain ⟨e, he⟩ := Option.isSome_iff_exists.1 ((encode_isSome i).trans wf)
    exact ⟨e, he, decode_of_encode he⟩
  · exact Option.not_isSome_iff_eq_none.1 (encode_isSome i ▸ notWf)

/-- Settles O5: each word is, byte for byte, the encoding of its instruction. -/
theorem wordsOfTheSpecDecode : Obligations.WordsOfTheSpecDecode :=
  ⟨decode_of_encode rfl, decode_of_encode rfl, decode_of_encode rfl, decode_of_encode rfl, decode_of_encode rfl,
    decode_of_encode rfl, decode_of_encode rfl, decode_of_encode rfl, decode_of_encode rfl⟩

/-! ## The frame and its command -/

/-- The round trip of one frame (R107). -/
theorem decodeFrame_encodeFrame (o : Byte) (a : Addr) (p : Byte) : decodeFrame (encodeFrame o a p) = some ⟨o, a, p⟩ := by
  simp [decodeFrame, encodeFrame, joinAddr_split]

/-- The frame decoder answers on the sequences of 4 bytes and on no others (R94). -/
theorem decodeFrame_isSome_iff (f : List Byte) : (decodeFrame f).isSome ↔ f.length = 4 := by
  match f with
  | [_, _, _, _] => simp [decodeFrame]
  | [] | [_] | [_, _] | [_, _, _] | _ :: _ :: _ :: _ :: _ :: _ => simp [decodeFrame]

/-- Settles O7: what the decoder answers has the sequence as its frame, and every command is decoded from its own frame. -/
theorem frameIsABijection : Obligations.FrameIsABijection := by
  refine ⟨fun f length => ?_, fun f length => ?_⟩
  · obtain ⟨c, hc⟩ := Option.isSome_iff_exists.1 ((decodeFrame_isSome_iff f).2 length)
    refine ⟨c, hc, (encodeFrame_of_decodeFrame hc).symm, ?_⟩
    rintro o a p rfl
    exact Option.some.inj (hc.symm.trans (decodeFrame_encodeFrame o a p))
  · exact Option.not_isSome_iff_eq_none.1 (mt (decodeFrame_isSome_iff f).1 length)

/-! ## The frame as one number -/

/-- A word's number by its two parts. -/
theorem append_toNat {m n : Nat} (x : BitVec m) (y : BitVec n) : (x ++ y).toNat = x.toNat * 2 ^ n + y.toNat := by
  rw [BitVec.toNat_append, ← Nat.shiftLeft_add_eq_or_of_lt y.isLt, Nat.shiftLeft_eq]

theorem frameWord_toNat (o : Byte) (a : Addr) (p : Byte) :
    (frameWord o a p).toNat = o.toNat * 2 ^ 24 + a.toNat * 2 ^ 8 + p.toNat := by
  rw [frameWord, append_toNat, append_toNat]
  omega

/-- The word view sends the bytes of the frame in channel order (R82). -/
theorem frameBytes_frameWord (o : Byte) (a : Addr) (p : Byte) : frameBytes (frameWord o a p) = encodeFrame o a p := by
  have aboveOperand {k : Nat} (h : 8 ≤ k) : (frameWord o a p).extractLsb' k 8 = (o ++ a).extractLsb' (k - 8) 8 :=
    BitVec.extractLsb'_append_eq_of_le h
  have operand : (frameWord o a p).extractLsb' 0 8 = p :=
    (BitVec.extractLsb'_append_eq_of_add_le (by decide)).trans BitVec.extractLsb'_eq_self
  have opcode : (o ++ a).extractLsb' 16 8 = o :=
    (BitVec.extractLsb'_append_eq_of_le (by decide)).trans BitVec.extractLsb'_eq_self
  have address {k : Nat} (h : k + 8 ≤ 16) : (o ++ a).extractLsb' k 8 = a.extractLsb' k 8 :=
    BitVec.extractLsb'_append_eq_of_add_le h
  rw [frameBytes, aboveOperand (by decide), aboveOperand (by decide), aboveOperand (by decide), operand, opcode,
    address (by decide), address (by decide)]
  rfl

/-- Settles O8: the bytes are the definition's, the word view and its number are the two lemmas above. -/
theorem frameLayout : Obligations.FrameLayout := fun o a p =>
  ⟨rfl, frameBytes_frameWord o a p, frameWord_toNat o a p⟩

/-- The table word of a frame's number is read as the frame (R82). -/
theorem tableFrame_frameWord (o : Byte) (a : Addr) (p : Byte) :
    tableFrame (frameWord o a p).toNat = encodeFrame o a p := by
  rw [tableFrame, BitVec.ofNat_toNat, BitVec.setWidth_eq, frameBytes_frameWord]

/-- Settles O9: the number is the frame's, and the frame's row is chosen by its opcode. -/
theorem tableWordsSelectTheirRow : Obligations.TableWordsSelectTheirRow := by
  intro o a p
  rw [← frameWord_toNat, decodeTableWord_frame, tableFrame_frameWord, decodeCmd_encodeFrame]
  simp only [apply_ite Except.toOption]
  rfl

end Sys2Proof
end

section
/-! PROOFS. What selects no operation and what is no awaited byte: the selector 3 in `Idle` (R92), and a marker in the
other wait or in none (R154, R162, R187). -/

namespace Sys2Proof.Machine

open Sys2Proof

/-! ## The reserved selector -/

/-- No frame's row begins the exchange of the reserved selector (R88, R92). -/
theorem exchange_ne_reserved (i : Instr) : i.exchange ≠ some 3#2 := by
  cases i <;> exact nofun

/-- Naming a `Start` by its frame does not make the reserved selector one (R92). -/
theorem decodePort_reserved {p : HostPort} (h : p.op = 3#2) : decodePort p = .error .reservedSelector := by
  rw [← decodeHop_reserved h, decodePort]
  split
  · split
    · exact if_neg (h ▸ exchange_ne_reserved _)
    · rfl
  · rfl

/-- Settles O22: the signals of the step decode to nothing, and the fetch leaves the state alone. -/
theorem reservedSelectorChangesNothing : Obligations.ReservedSelectorChangesNothing := by
  intro s r idle start reserved
  rw [step_idle r idle, State.fetchStart, if_pos start, decodePort_reserved reserved]
  rfl

/-! ## A marker that is not awaited -/

theorem exec_ack (s : State) : exec .ack s = .next (s.receiveByte ackValue) := rfl

theorem exec_successHs (s : State) : exec .successHs s = .next (s.receiveByte successValue) := rfl

/-- Another byte than the expected one is a `HandshakeError` with both (R114). -/
theorem State.compareByte_of_ne (s : State) {expected actual : Byte} (h : actual ≠ expected) (target : St) :
    s.compareByte expected actual target = s.raise (.handshake expected actual) := if_neg h

/-- A byte that no read asked for is no event (R187). -/
theorem State.receiveByte_of_no_wait {s : State} (ack : s.st ≠ .ackAwaited) (completion : s.st ≠ .completionAwaited)
    (b : Byte) : s.receiveByte b = s := by
  unfold State.receiveByte
  split
  · exact absurd ‹_› ack
  · exact absurd ‹_› completion
  · rfl

/-- Settles O28: each wait compares with its own marker, and elsewhere nothing is compared. -/
theorem markerInTheWrongStateIsAWrongByte : Obligations.MarkerInTheWrongStateIsAWrongByte := by
  refine fun s => ⟨fun h => ?_, fun h => ?_, fun ack completion => ?_⟩
  · rw [exec_ack, State.receiveByte_completionAwaited h, State.compareByte_of_ne s (by decide)]
    rfl
  · rw [exec_successHs, State.receiveByte_ackAwaited h, State.compareByte_of_ne s (by decide)]
    rfl
  · rw [exec_ack, exec_successHs, State.receiveByte_of_no_wait ack completion,
      State.receiveByte_of_no_wait ack completion]
    exact ⟨rfl, rfl⟩

end Sys2Proof.Machine
end

section
/-! PROOFS. The frame that a `Start` sends: its round trip (R107), the four frame rows in `Idle` with the frame accepted
whole (R101 to R104, R151), and the payloads that no frame announces (R37, R109). -/

namespace Sys2Proof.Machine

open Sys2Proof

/-! ## The round trip -/

/-- Settles O6: the opcode and the operand are whole bytes, and the address is joined again from its two. -/
theorem frameRoundTrip : Obligations.FrameRoundTrip := decodeFrame_encodeFrame

/-! ## A frame accepted whole -/

/-- A write answered without the error flag and with every byte accepted leads on (R118). -/
theorem State.afterWriteAll_accepted (s : State) (k : Nat) (target : St) :
    s.afterWriteAll ⟨k, false⟩ k target = s.enter target := by
  simp [State.afterWriteAll]

/-- The channel answers alike whatever command is latched. -/
theorem StartFields.latched_afterWrite (f : StartFields) (s : State) :
    (f.latched s).afterWrite = f.latched s.afterWrite := by
  cases h : s.writeAnswers <;> simp only [State.afterWrite, StartFields.latched, h]

/-- A `Start` in `Idle` whose frame is accepted whole: the command is latched, the frame recorded, `st` is `FrameSent`, and
nothing else changes (R151). -/
theorem exec_start_accepted {i : Instr} {s : State} {f : StartFields} (l : i.startFields s = some f) (idle : s.st = .idle)
    (accepted : s.writeAnswer 4 = some ⟨4, false⟩) :
    exec i s = .next { f.latched s.afterWrite with
      st := .frameSent, history := s.history ++ [.write f.frame ⟨4, false⟩] } := by
  rw [exec_start_idle l idle, accepted, onAnswer_some, State.afterWriteAll_accepted, StartFields.latched_afterWrite,
    ← s.afterWrite_history]
  rfl

/-- Settles O17: the two frames latch the opcodes 0 and 1 of `SendCommand` and no payload. -/
theorem successAndWriteFramesAreSent : Obligations.SuccessAndWriteFramesAreSent := by
  intro a p s idle accepted
  have success : Instr.startFields (.success a p) s = some ⟨0#2, 0#8, a, p, []⟩ := rfl
  have write : Instr.startFields (.write a p) s = some ⟨0#2, 1#8, a, p, []⟩ := rfl
  exact ⟨exec_start_accepted success idle accepted, exec_start_accepted write idle accepted⟩

/-- Settles O18: the frame latches the presented payload, as it has the announced length. -/
theorem writePageFrameIsSent : Obligations.WritePageFrameIsSent := by
  intro a p s fits idle accepted
  have page : Instr.startFields (.writePage a p) s = some ⟨1#2, 2#8, a, p, s.port.payload⟩ := if_pos fits
  rw [exec_start_accepted page idle accepted, ← s.afterWrite_buf]
  rfl

/-- Settles O19: the frame latches the opcode 3 and no payload. -/
theorem readFrameIsSent : Obligations.ReadFrameIsSent := by
  intro a p s idle accepted
  have read : Instr.startFields (.read a p) s = some ⟨2#2, 3#8, a, p, []⟩ := rfl
  exact exec_start_accepted read idle accepted

/-! ## A payload that cannot be presented -/

theorem exec_writePageOp_too_long {payload : List Byte} (h : 255 < payload.length) (a : Addr) (s : State) :
    exec (.writePageOp a payload) s = .refused .payloadTooLong := by
  simp [exec, execWritePageOp, payloadOperand_of_gt h]

theorem runWritePage_too_long {payload : List Byte} (h : 255 < payload.length) (a : Addr) (s : State) :
    runWritePage a payload s = .refused .payloadTooLong := by
  simp [runWritePage, payloadOperand_of_gt h]

theorem encode_writePageOp_too_long {payload : List Byte} (h : 255 < payload.length) (a : Addr) :
    encode (.writePageOp a payload) = none := by
  simp [encode, payloadOperand_of_gt h]

theorem exec_writePage_mismatch {s : State} {p : Byte} (h : s.port.payload.length ≠ p.toNat) (a : Addr) :
    exec (.writePage a p) s = .refused .payloadLengthMismatch := if_neg h

/-- Settles O23: a payload above 255 bytes has no operand, for the step, the pseudocode and the encoder alike, and the
frame's length is compared before anything is latched. -/
theorem unpresentablePayloadIsRefused : Obligations.UnpresentablePayloadIsRefused :=
  ⟨fun a _ s long => ⟨exec_writePageOp_too_long long a s, runWritePage_too_long long a s,
      encode_writePageOp_too_long long a⟩,
    fun a _ _ mismatch => exec_writePage_mismatch mismatch a⟩

end Sys2Proof.Machine
end

section
/-! PROOFS. The naming flag adds no behaviour: a frame's row runs as the row of its operation (R101 to R104), and otherwise
a step reads the host's signals through the three events and the selector only. -/

namespace Sys2Proof

/-! ## The row of a selector -/

theorem decodeHop_of_sendCommand {p : HostPort} (h : p.op = hopSendCommand) :
    decodeHop p = .ok (.sendCommand p.opcode p.addr p.op0) := if_pos h

theorem decodeHop_of_writePage {p : HostPort} (h : p.op = hopWritePage) (fits : p.payload.length = p.op0.toNat) :
    decodeHop p = .ok (.writePageOp p.addr p.payload) := by
  simp [decodeHop, HostPort.payloadFits, h, fits, hopSendCommand, hopWritePage]

theorem decodeHop_of_readData {p : HostPort} (h : p.op = hopReadData) :
    decodeHop p = .ok (.readDataOp p.addr p.op0) := by
  simp [decodeHop, h, hopSendCommand, hopWritePage, hopReadData]

/-- Signals are rejected for their selector or its payload only, never for the frame that names them. -/
theorem decodePort_error {p : HostPort} {e : DecodeError} (h : decodePort p = .error e) : decodeHop p = .error e := by
  unfold decodePort at h
  split at h
  · split at h
    · split at h
      · cases h
      · exact h
    · exact h
  · exact h

end Sys2Proof

namespace Sys2Proof.Machine

open Sys2Proof

/-! ## A frame's row runs as its operation's row -/

theorem exec_success_eq_sendCommand (a : Addr) (p : Byte) (s : State) :
    exec (.success a p) s = exec (.sendCommand opSuccess a p) s := rfl

theorem exec_write_eq_sendCommand (a : Addr) (p : Byte) (s : State) :
    exec (.write a p) s = exec (.sendCommand opWrite a p) s := rfl

theorem exec_read_eq_readDataOp (a : Addr) (n : Byte) (s : State) :
    exec (.read a n) s = exec (.readDataOp a n) s := rfl

/-- A presented payload of the announced length is the payload of the operation, with the length as its operand (R37). -/
theorem exec_writePage_eq_writePageOp {s : State} {p : Byte} (fits : s.port.payload.length = p.toNat) (a : Addr) :
    exec (.writePage a p) s = exec (.writePageOp a s.port.payload) s := by
  have le : s.port.payload.length ≤ 255 := fits.trans_le (Nat.le_of_lt_succ p.isLt)
  have operand : payloadOperand s.port.payload = some p := by
    rw [payloadOperand_of_le le, fits, BitVec.ofNat_toNat, BitVec.setWidth_eq]
  simp [exec, execWritePage, execWritePageOp, fits, operand]

/-- What a requested `Start` does by what its signals decode to. -/
def State.runDecoded (s : State) : Except DecodeError Instr → Host.Outcome State Fault Refusal
  | .ok i => exec i s
  | .error .payloadLength => .refused .payloadLengthMismatch
  | .error _ => .next s

theorem State.fetchStart_run (s : State) :
    s.fetchStart.run = if s.port.start then s.runDecoded (decodePort s.port) else .next s := by
  unfold State.fetchStart
  split
  · rcases decodePort s.port with e | i
    · cases e <;> rfl
    · rfl
  · rfl

/-- A `Start` named by its frame runs as its selector's row does (R101 to R104). -/
theorem State.runDecoded_decodePort (s : State) : s.runDecoded (decodePort s.port) = s.runDecoded (decodeHop s.port) := by
  cases named : decodePort s.port with
  | error e => rw [decodePort_error named]
  | ok i =>
    rcases decodePort_cases named with selected | ⟨send, opcode, rfl⟩ | ⟨send, opcode, rfl⟩ | ⟨page, rfl⟩ | ⟨read, rfl⟩
    · rw [selected]
    · rw [decodeHop_of_sendCommand send, opcode]
      exact exec_success_eq_sendCommand ..
    · rw [decodeHop_of_sendCommand send, opcode]
      exact exec_write_eq_sendCommand ..
    · by_cases fits : s.port.payload.length = s.port.op0.toNat
      · rw [decodeHop_of_writePage page fits]
        exact exec_writePage_eq_writePageOp fits _
      · rw [decodeHop_payloadLength page fits]
        exact exec_writePage_mismatch fits _
    · rw [decodeHop_of_readData read]
      exact exec_read_eq_readDataOp ..

/-! ## Operations under other signals -/

/-- The state with other signals on the port. -/
def State.withPort (s : State) (p : HostPort) : State := { s with port := p }

@[simp] theorem State.withPort_st (s : State) (p : HostPort) : (s.withPort p).st = s.st := rfl
@[simp] theorem State.withPort_missing (s : State) (p : HostPort) : (s.withPort p).missing = s.missing := rfl
@[simp] theorem State.withPort_port (s : State) (p : HostPort) : (s.withPort p).port = p := rfl

theorem State.withPort_afterWrite (s : State) (p : HostPort) : (s.withPort p).afterWrite = s.afterWrite.withPort p := by
  cases h : s.writeAnswers <;> simp only [State.afterWrite, State.withPort, h]

theorem State.withPort_afterRead (s : State) (p : HostPort) : (s.withPort p).afterRead = s.afterRead.withPort p := by
  cases h : s.readAnswers <;> simp only [State.afterRead, State.withPort, h]

theorem State.withPort_record (s : State) (p : HostPort) (x : Transaction) :
    (s.withPort p).record x = (s.record x).withPort p := rfl

theorem State.withPort_afterWriteAll (s : State) (p : HostPort) (a : WriteAnswer) (k : Nat) (target : St) :
    (s.withPort p).afterWriteAll a k target = (s.afterWriteAll a k target).withPort p := by
  unfold State.afterWriteAll
  split
  · rfl
  · split <;> rfl

theorem State.withPort_compareByte (s : State) (p : HostPort) (expected actual : Byte) (target : St) :
    (s.withPort p).compareByte expected actual target = (s.compareByte expected actual target).withPort p := by
  unfold State.compareByte
  split <;> rfl

theorem State.withPort_receiveByte (s : State) (p : HostPort) (b : Byte) :
    (s.withPort p).receiveByte b = (s.receiveByte b).withPort p := by
  unfold State.receiveByte
  rw [State.withPort_st]
  split
  · exact s.withPort_compareByte ..
  · exact s.withPort_compareByte ..
  · rfl

theorem State.withPort_afterMarker (s : State) (p : HostPort) (a : ReadAnswer) :
    (s.withPort p).afterMarker a = (s.afterMarker a).withPort p := by
  unfold State.afterMarker
  split
  · rfl
  · split
    · rfl
    · exact s.withPort_receiveByte ..

theorem State.withPort_afterPayloadRead (s : State) (p : HostPort) (a : ReadAnswer) :
    (s.withPort p).afterPayloadRead a = (s.afterPayloadRead a).withPort p := by
  unfold State.afterPayloadRead
  split
  · rfl
  · split <;> rfl

/-! ## Outcomes without the signals -/

theorem portless_withPort (s : State) (p : HostPort) : portless (.next (s.withPort p)) = portless (.next s) := rfl

theorem portless_onAnswer {α : Type} (answer : Option α) {k k' : α → State} {p : HostPort}
    (h : ∀ a, k a = (k' a).withPort p) : portless (onAnswer answer k) = portless (onAnswer answer k') := by
  cases answer with
  | none => rfl
  | some a => rw [onAnswer_some, onAnswer_some, h, portless_withPort]

theorem portless_writeAll (s : State) (p : HostPort) (data : List Byte) (target : St) :
    portless ((s.withPort p).writeAll data target) = portless (s.writeAll data target) := by
  rw [State.writeAll_eq, State.writeAll_eq]
  refine portless_onAnswer (s.writeAnswer data.length) (p := p) fun a => ?_
  rw [State.withPort_afterWrite, State.withPort_record]
  exact State.withPort_afterWriteAll ..

theorem portless_payloadRead (s : State) (p : HostPort) :
    portless (s.withPort p).payloadRead = portless s.payloadRead := by
  rw [State.payloadRead_eq, State.payloadRead_eq, State.withPort_missing]
  refine portless_onAnswer (s.readAnswer s.missing) (p := p) fun a => ?_
  rw [State.withPort_afterRead, State.withPort_record]
  exact State.withPort_afterPayloadRead ..

theorem portless_fetchMarker (s : State) (p : HostPort) :
    portless (s.withPort p).fetchMarker.run = portless s.fetchMarker.run := by
  rw [State.fetchMarker_run, State.fetchMarker_run]
  refine portless_onAnswer (s.readAnswer 1) (p := p) fun a => ?_
  rw [State.withPort_afterRead, State.withPort_record]
  exact State.withPort_afterMarker ..

theorem portless_payloadPhase (s : State) (p : HostPort) :
    portless (s.withPort p).payloadPhase = portless s.payloadPhase := by
  by_cases send : s.hop = hopSendCommand
  · rw [State.payloadPhase_sendCommand send, State.payloadPhase_sendCommand (u := s.withPort p) send]
    rfl
  by_cases page : s.hop = hopWritePage
  · rw [State.payloadPhase_writePage page, State.payloadPhase_writePage (u := s.withPort p) page]
    exact portless_writeAll s p s.payloadBytes .payloadTransferred
  by_cases more : s.hop = hopReadData ∧ s.cnt < s.op0
  · obtain ⟨read, lt⟩ := more
    rw [State.payloadPhase_readMissing read lt, State.payloadPhase_readMissing (u := s.withPort p) read lt]
    exact portless_payloadRead s p
  by_cases complete : s.hop = hopReadData ∧ s.cnt = s.op0
  · obtain ⟨read, eq⟩ := complete
    rw [State.payloadPhase_readComplete read eq, State.payloadPhase_readComplete (u := s.withPort p) read eq]
    rfl
  · have unguarded (read : s.hop = hopReadData) : ¬ s.cnt < s.op0 ∧ s.cnt ≠ s.op0 :=
      ⟨fun lt => more ⟨read, lt⟩, fun eq => complete ⟨read, eq⟩⟩
    rw [State.payloadPhase_unguarded send page unguarded,
      State.payloadPhase_unguarded (u := s.withPort p) send page unguarded]

theorem portless_startOperation (s : State) (p : HostPort) (hop : BitVec 2) (o : Byte) (a : Addr) (n : Byte)
    (payload : List Byte) :
    portless ((s.withPort p).startOperation hop o a n payload) = portless (s.startOperation hop o a n payload) := by
  by_cases idle : s.st = .idle
  · rw [State.startOperation_idle idle, State.startOperation_idle (s := s.withPort p) idle]
    exact portless_writeAll ((s.latch hop o a n).latchPayload payload) p _ _
  · rw [State.startOperation_busy idle, State.startOperation_busy (s := s.withPort p) idle, portless_withPort]

/-- The row of a selector brings its operands with it and reads none from the port. -/
theorem portless_runDecoded_decodeHop (s : State) (p q : HostPort) :
    portless ((s.withPort p).runDecoded (decodeHop q)) = portless (s.runDecoded (decodeHop q)) := by
  cases d : decodeHop q with
  | error e => cases e <;> rfl
  | ok i =>
    rcases decodeHop_cases d with ⟨-, rfl⟩ | ⟨-, -, rfl⟩ | ⟨-, rfl⟩
    · exact portless_startOperation ..
    · simp only [State.runDecoded, exec, execWritePageOp]
      split
      · exact portless_startOperation ..
      · rfl
    · exact portless_startOperation ..

/-! ## The step under other signals -/

/-- Signals that request the same events and select the same row. -/
structure SameCall (p q : HostPort) : Prop where
  rst : p.rst = q.rst
  start : p.start = q.start
  ret : p.ret = q.ret
  row : decodeHop p = decodeHop q

theorem SameCall.portless_fetchStart {p q : HostPort} (c : SameCall p q) (s : State) :
    portless (s.withPort p).fetchStart.run = portless (s.withPort q).fetchStart.run := by
  rw [State.fetchStart_run, State.fetchStart_run, State.runDecoded_decodePort, State.runDecoded_decodePort,
    State.withPort_port, State.withPort_port, c.start, c.row]
  split
  · rw [portless_runDecoded_decodeHop, portless_runDecoded_decodeHop]
  · rfl

/-- The step reads the host's signals through the three events and the selector's row only. -/
theorem SameCall.portless_fetch {p q : HostPort} (c : SameCall p q) (s : State) :
    portless (s.withPort p).fetch.run = portless (s.withPort q).fetch.run := by
  cases r : q.rst with
  | true =>
    rw [State.fetch_reset (u := s.withPort p) (c.rst.trans r), State.fetch_reset (u := s.withPort q) r]
    rfl
  | false =>
    have rp : (s.withPort p).port.rst = false := c.rst.trans r
    have rq : (s.withPort q).port.rst = false := r
    have wait (h : s.st = .ackAwaited ∨ s.st = .completionAwaited) :
        portless (s.withPort p).fetch.run = portless (s.withPort q).fetch.run := by
      rw [State.fetch_handshakeWait rp h, State.fetch_handshakeWait rq h, portless_fetchMarker, portless_fetchMarker]
    have ended (h : s.st = .done ∨ s.st = .failed) :
        portless (s.withPort p).fetch.run = portless (s.withPort q).fetch.run := by
      rw [State.fetch_ended rp h, State.fetch_ended rq h, State.withPort_port, State.withPort_port, c.ret]
      split <;> rfl
    cases h : s.st with
    | idle =>
      rw [State.fetch_idle rp h, State.fetch_idle rq h]
      exact c.portless_fetchStart s
    | frameSent =>
      rw [State.fetch_frameSent rp h, State.fetch_frameSent rq h]
      rfl
    | ackAwaited => exact wait (.inl h)
    | ackReceived =>
      rw [State.fetch_ackReceived rp h, State.fetch_ackReceived rq h]
      exact (portless_payloadPhase s p).trans (portless_payloadPhase s q).symm
    | payloadTransferred =>
      rw [State.fetch_payloadTransferred rp h, State.fetch_payloadTransferred rq h]
      rfl
    | completionAwaited => exact wait (.inr h)
    | done => exact ended (.inl h)
    | failed => exact ended (.inr h)

/-- Settles O13: the flag is no event and no part of the selector's row. -/
theorem namingByFrameChangesNothing : Obligations.NamingByFrameChangesNothing := fun s p rest =>
  have flagOnly : SameCall { p with viaFrame := true } { p with viaFrame := false } := ⟨rfl, rfl, rfl, rfl⟩
  flagOnly.portless_fetch { s with script := rest }

end Sys2Proof.Machine
end

section
/-! PROOFS. A `ReadData` over a channel that delivers its bytes in pieces (R115, R132): the operation is followed through its
stages, and each step leads from a stage to the next. -/

namespace Sys2Proof.Machine

open Sys2Proof

/-! ## Runs put together -/

theorem steps_succ_of_step {s t : State} (h : step s = .next t) (n : Nat) : steps (n + 1) s = steps n t := by
  rw [steps_succ, h]

/-- A run goes on where another ends. -/
theorem steps_add {m : Nat} {s t : State} (h : steps m s = .next t) (n : Nat) : steps (m + n) s = steps n t := by
  induction m generalizing s with
  | zero =>
    cases h
    rw [Nat.zero_add]
  | succ m ih =>
    rw [steps_succ] at h
    generalize first : step s = o at h
    cases o with
    | next u => rw [Nat.add_right_comm, steps_succ_of_step first, ih h]
    | fault | refused => cases h

/-! ## What the buffer holds after one more piece -/

theorem Memory.readRange_add (b : Memory) (start m n : Nat) :
    b.readRange start (m + n) = b.readRange start m ++ b.readRange (start + m) n := by
  refine List.ext_getElem (by simp) fun i h1 h2 => ?_
  rw [List.getElem_append]
  split
  · simp
  · rename_i above
    rw [Memory.readRange_length] at above
    rw [Memory.readRange_getElem, Memory.readRange_getElem, Memory.readRange_length]
    congr 1
    omega

/-- Writing a range leaves what stands below it. -/
theorem Memory.readRange_below_writeRange {b : Memory} (h : b.wf = true) (n : Nat) (bytes : List Byte)
    (fits : n + bytes.length ≤ Config.bufDepth) : (b.writeRange n bytes).readRange 0 n = b.readRange 0 n := by
  refine Memory.readRange_congr fun i _ hi => ?_
  rw [Memory.read_writeRange h n bytes fits, dif_neg (by omega)]

/-- Bytes written right above others are read back after them (R51). -/
theorem Memory.readRange_writeRange_append {b : Memory} (h : b.wf = true) {below : List Byte}
    (stored : b.readRange 0 below.length = below) (bytes : List Byte)
    (fits : below.length + bytes.length ≤ Config.bufDepth) :
    (b.writeRange below.length bytes).readRange 0 (below ++ bytes).length = below ++ bytes := by
  rw [List.length_append, Memory.readRange_add, Memory.readRange_below_writeRange h _ _ fits, stored, Nat.zero_add,
    Memory.readRange_writeRange h _ _ fits]

/-! ## The stages of a `ReadData` -/

/-- How far a `ReadData` is: the state of the controller, the length asked for, the bytes received so far, how many
transactions are on record, and the answers of the channel still to come. -/
structure ReadStage where
  st : St
  length : Byte
  received : List Byte
  transactions : Nat
  writeAnswers : List WriteAnswer
  readAnswers : List ReadAnswer

/-- The block is at a stage of a `ReadData` without an error, with nothing more presented by the host and the bytes received
so far at the bottom of its buffer. -/
structure State.AtStage (s : State) (p : ReadStage) : Prop where
  st : s.st = p.st
  script : s.script = []
  hop : s.hop = hopReadData
  op0 : s.op0 = p.length
  noError : s.err = .noError
  canonical : s.BufCanonical
  cnt : s.cnt.toNat = p.received.length
  stored : s.buf.readRange 0 p.received.length = p.received
  history : s.history.length = p.transactions
  writeAnswers : s.writeAnswers = p.writeAnswers
  readAnswers : s.readAnswers = p.readAnswers

/-- A host that presents nothing more presents nothing in the coming step. -/
theorem State.sample_of_script_nil {s : State} (h : s.script = []) : s.sample = { s with port := HostPort.quiet } := by
  simp [State.sample, h]

theorem State.AtStage.sample {s : State} {p : ReadStage} (h : s.AtStage p) :
    s.sample.port = HostPort.quiet ∧ s.sample.AtStage p := by
  obtain ⟨st, script, hop, op0, noError, canonical, cnt, stored, history, writes, reads⟩ := h
  rw [State.sample_of_script_nil script]
  exact ⟨rfl, st, script, hop, op0, noError, canonical, cnt, stored, history, writes, reads⟩

theorem State.AtStage.enter {s : State} {p : ReadStage} (h : s.AtStage p) (target : St) :
    (s.enter target).AtStage { p with st := target } := by
  obtain ⟨-, script, hop, op0, noError, canonical, cnt, stored, history, writes, reads⟩ := h
  exact ⟨rfl, script, hop, op0, noError, canonical, cnt, stored, history, writes, reads⟩

/-- A read takes the next answer of the channel and records one transaction (R59, R69). -/
theorem State.AtStage.read {s : State} {p : ReadStage} {a : ReadAnswer} {rs : List ReadAnswer}
    (h : s.AtStage { p with readAnswers := a :: rs }) (x : Transaction) :
    (s.afterRead.record x).AtStage { p with transactions := p.transactions + 1, readAnswers := rs } := by
  obtain ⟨st, script, hop, op0, noError, canonical, cnt, stored, history, writes, reads⟩ := h
  exact ⟨by simpa using st, by simpa using script, by simpa using hop, by simpa using op0, by simpa using noError,
    by simpa [State.BufCanonical] using canonical, by simpa using cnt, by simpa using stored, by simpa using history,
    by simpa using writes, by simp [reads]⟩

/-- A piece that fits is stored above the bytes received before it, and counted (R158). -/
theorem State.AtStage.storeReceived {s : State} {p : ReadStage} (h : s.AtStage p) {piece : List Byte}
    (fits : p.received.length + piece.length ≤ p.length.toNat) :
    (s.storeReceived piece).AtStage { p with received := p.received ++ piece } := by
  obtain ⟨st, script, hop, op0, noError, canonical, cnt, stored, history, writes, reads⟩ := h
  have depth : p.received.length + piece.length ≤ Config.bufDepth := by
    rw [← op0] at fits
    exact fits.trans s.op0_le_depth
  have bounded : s.cnt ≤ s.op0 := by
    rw [BitVec.le_def, op0, cnt]
    omega
  have le : piece.length ≤ s.missing := by
    rw [State.missing, op0, cnt]
    omega
  refine ⟨st, script, hop, op0, noError, ?_, ?_, ?_, history, writes, reads⟩
  · rw [State.BufCanonical, State.storeReceived_buf, cnt]
    exact Memory.wf_writeRange canonical _ piece depth
  · rw [State.storeReceived_cnt_toNat bounded le, cnt, List.length_append]
  · rw [State.storeReceived_buf, cnt]
    exact Memory.readRange_writeRange_append canonical stored piece depth

/-- With all the bytes asked for received, the result is what was received (R31). -/
theorem State.AtStage.payloadBytes {s : State} {p : ReadStage} (h : s.AtStage p)
    (whole : p.received.length = p.length.toNat) : s.payloadBytes = p.received := by
  rw [State.payloadBytes, State.len, h.op0, ← whole, h.stored]

theorem State.AtStage.cnt_eq {s : State} {p : ReadStage} (h : s.AtStage p)
    (whole : p.received.length = p.length.toNat) : s.cnt = p.length :=
  BitVec.eq_of_toNat_eq (h.cnt.trans whole)

/-! ## From stage to stage -/

/-- From every state at the first stage, this many steps lead to a state at the second. -/
def Leads (n : Nat) (p q : ReadStage) : Prop := ∀ s : State, s.AtStage p → ∃ t, steps n s = .next t ∧ t.AtStage q

theorem Leads.refl (p : ReadStage) : Leads 0 p p := fun s h => ⟨s, rfl, h⟩

theorem Leads.trans {m n : Nat} {p q r : ReadStage} (first : Leads m p q) (second : Leads n q r) :
    Leads (m + n) p r := by
  intro s h
  obtain ⟨t, run, ht⟩ := first s h
  obtain ⟨u, run', hu⟩ := second t ht
  exact ⟨u, (steps_add run n).trans run', hu⟩

/-- One step leads on when what it fetches, with nothing presented, does. -/
theorem Leads.of_fetch {p q : ReadStage}
    (h : ∀ u : State, u.port = HostPort.quiet → u.AtStage p → ∃ t, u.fetch.run = .next t ∧ t.AtStage q) :
    Leads 1 p q := by
  intro s hs
  obtain ⟨quiet, sampled⟩ := hs.sample
  obtain ⟨t, ran, ht⟩ := h s.sample quiet sampled
  exact ⟨t, steps_succ_of_step ran 0, ht⟩

theorem rst_of_quiet {q : HostPort} (h : q = HostPort.quiet) : q.rst = false := by rw [h]; rfl

/-- After the frame the block turns to reading, without a transaction (R152). -/
theorem leads_turnToRead {p : ReadStage} (st : p.st = .frameSent) : Leads 1 p { p with st := .ackAwaited } :=
  .of_fetch fun u quiet h =>
    ⟨u.enter .ackAwaited, by rw [State.fetch_frameSent (rst_of_quiet quiet) (h.st.trans st)]; rfl, h.enter _⟩

/-- After the payload the block turns to the completion, without a transaction (R160). -/
theorem leads_turnToCompletion {p : ReadStage} (st : p.st = .payloadTransferred) :
    Leads 1 p { p with st := .completionAwaited } :=
  .of_fetch fun u quiet h =>
    ⟨u.enter .completionAwaited,
      by rw [State.fetch_payloadTransferred (rst_of_quiet quiet) (h.st.trans st)]; rfl, h.enter _⟩

/-- The marker that a handshake wait expects, and the state it leads to (R153, R161). -/
inductive Awaits : St → Byte → St → Prop
  | ack : Awaits .ackAwaited ackValue .ackReceived
  | completion : Awaits .completionAwaited successValue .done

theorem Awaits.wait {wait target : St} {marker : Byte} (w : Awaits wait marker target) :
    wait = .ackAwaited ∨ wait = .completionAwaited := by
  cases w <;> simp

theorem Awaits.receiveByte {wait target : St} {marker : Byte} (w : Awaits wait marker target) {s : State}
    (h : s.st = wait) : s.receiveByte marker = s.enter target := by
  cases w with
  | ack => rw [State.receiveByte_ackAwaited h]; exact if_pos rfl
  | completion => rw [State.receiveByte_completionAwaited h]; exact if_pos rfl

/-- The next scripted answer is the channel's answer, when it delivers no more than is asked for (R60). -/
theorem State.readAnswer_of_cons {s : State} {a : ReadAnswer} {rs : List ReadAnswer} (h : s.readAnswers = a :: rs)
    {k : Nat} (le : a.bytes.length ≤ k) : s.readAnswer k = some a := by
  simp [State.readAnswer, h, le]

/-- The awaited marker ends its wait, in one transaction (R114, R153, R161). -/
theorem leads_marker {wait target : St} {marker : Byte} (w : Awaits wait marker target) (p : ReadStage)
    (rs : List ReadAnswer) :
    Leads 1 { p with st := wait, readAnswers := ⟨[marker], false⟩ :: rs }
      { p with st := target, transactions := p.transactions + 1, readAnswers := rs } :=
  .of_fetch fun u quiet h => by
    have answered : u.readAnswer 1 = some ⟨[marker], false⟩ := State.readAnswer_of_cons h.readAnswers le_rfl
    have waiting : u.st = wait := h.st
    have read := State.AtStage.read (p := { p with st := wait }) h (.read 1 ⟨[marker], false⟩)
    refine ⟨_, ?_, read.enter target⟩
    rw [State.fetch_handshakeWait (rst_of_quiet quiet) (waiting ▸ w.wait), State.fetchMarker_run, answered,
      onAnswer_some]
    exact congrArg _ (w.receiveByte read.st)

/-- A payload read answered without the error flag and with some byte stores what it was answered (R158). -/
theorem State.afterPayloadRead_of_ne {s : State} {piece : List Byte} (ne : piece ≠ []) :
    s.afterPayloadRead ⟨piece, false⟩ = s.storeReceived piece := by
  simp [State.afterPayloadRead, ne]

/-- One piece is one turn of the payload loop, in one transaction (R115, R158). -/
theorem leads_piece (p : ReadStage) (rs : List ReadAnswer) {piece : List Byte} (ne : piece ≠ [])
    (fits : p.received.length + piece.length ≤ p.length.toNat) :
    Leads 1 { p with st := .ackReceived, readAnswers := ⟨piece, false⟩ :: rs }
      { p with
        st := .ackReceived, received := p.received ++ piece, transactions := p.transactions + 1, readAnswers := rs } :=
  .of_fetch fun u quiet h => by
    have cnt : u.cnt.toNat = p.received.length := h.cnt
    have op0 : u.op0 = p.length := h.op0
    have more : u.cnt < u.op0 := by
      have some_byte := List.length_pos_iff.2 ne
      rw [BitVec.lt_def, op0, cnt]
      omega
    have le : piece.length ≤ u.missing := by
      rw [State.missing, op0, cnt]
      omega
    have read := State.AtStage.read (p := { p with st := .ackReceived }) h (.read u.missing ⟨piece, false⟩)
    refine ⟨_, ?_, read.storeReceived fits⟩
    rw [State.fetch_ackReceived (rst_of_quiet quiet) h.st, State.payloadPhase_readMissing h.hop more,
      State.payloadRead_eq, State.readAnswer_of_cons h.readAnswers le, onAnswer_some, State.afterPayloadRead_of_ne ne]
    rfl

/-- The payload loop takes piece after piece, each in one transaction (R115). -/
theorem leads_pieces (p : ReadStage) (rs : List ReadAnswer) (pieces : List (List Byte)) (ne : ∀ piece ∈ pieces, piece ≠ [])
    (fits : p.received.length + pieces.flatten.length ≤ p.length.toNat) :
    Leads pieces.length
      { p with st := .ackReceived, readAnswers := (pieces.map fun piece => ⟨piece, false⟩) ++ rs }
      { p with
        st := .ackReceived, received := p.received ++ pieces.flatten, transactions := p.transactions + pieces.length,
        readAnswers := rs } := by
  induction pieces generalizing p with
  | nil =>
    rw [List.flatten_nil, List.append_nil]
    exact .refl _
  | cons piece pieces ih =>
    rw [List.forall_mem_cons] at ne
    rw [List.flatten_cons, List.length_append] at fits
    have first := leads_piece p ((pieces.map fun piece => ⟨piece, false⟩) ++ rs) ne.1 (by omega)
    have rest : (p.received ++ piece).length + pieces.flatten.length ≤ p.length.toNat := by
      rw [List.length_append]
      omega
    have others := ih { p with received := p.received ++ piece, transactions := p.transactions + 1 } ne.2 rest
    rw [List.flatten_cons, List.length_cons, Nat.add_comm pieces.length 1, ← List.append_assoc, ← Nat.add_assoc]
    exact first.trans others

/-- With all the bytes received the payload phase ends without a transaction (R159). -/
theorem leads_payloadDone {p : ReadStage} (st : p.st = .ackReceived) (whole : p.received.length = p.length.toNat) :
    Leads 1 p { p with st := .payloadTransferred } :=
  .of_fetch fun u quiet h => by
    have complete : u.cnt = u.op0 := (h.cnt_eq whole).trans h.op0.symm
    refine ⟨u.enter .payloadTransferred, ?_, h.enter _⟩
    rw [State.fetch_ackReceived (rst_of_quiet quiet) (h.st.trans st), State.payloadPhase_readComplete h.hop complete]
    rfl

/-- Without a `Return` the block stays in `Done` (R163). -/
theorem leads_done (n : Nat) {p : ReadStage} (st : p.st = .done) : Leads n p p := by
  induction n with
  | zero => exact .refl _
  | succ n ih =>
    refine ih.trans (.of_fetch fun u quiet h => ⟨u, ?_, h⟩)
    rw [State.fetch_ended (rst_of_quiet quiet) (.inl (h.st.trans st)), quiet]
    rfl

/-! ## The whole operation -/

/-- The `Start` of a `ReadData` whose frame is accepted whole leads to its first stage (R151). -/
theorem start_atStage {a : Addr} {len : Byte} {q : HostPort} {s : State} {ws : List WriteAnswer} (idle : s.st = .idle)
    (canonical : s.BufCanonical) (one : s.oneStart q) (d : decodePort q = .ok (.readDataOp a len))
    (accepted : s.writeAnswers = ⟨4, false⟩ :: ws) :
    ∃ t, step s = .next t ∧ t.AtStage ⟨.frameSent, len, [], s.history.length + 1, ws, s.readAnswers⟩ := by
  obtain ⟨script, rst, start⟩ := one
  have port : s.sample.port = q := by rw [State.sample_port, script]; rfl
  have noReset : s.noReset := (congrArg HostPort.rst port).trans rst
  have scriptOver : s.sample.script = [] := by rw [State.sample_script, script]; rfl
  have answered : s.sample.writeAnswer 4 = some ⟨4, false⟩ := by simp [State.writeAnswer, accepted]
  have fields : Instr.startFields (.readDataOp a len) s.sample = some ⟨2#2, 3#8, a, len, []⟩ := rfl
  have fetched := State.fetchStart_instr (port ▸ start) (port ▸ d)
  have ran := exec_start_accepted fields (s.sample_st.trans idle) answered
  have fetches : step s = exec (.readDataOp a len) s.sample := by
    rw [step_idle noReset idle, fetched]
    rfl
  refine ⟨_, fetches.trans ran, rfl, ?_, rfl, rfl, rfl, ?_, rfl, rfl, ?_, ?_, ?_⟩
  · simpa [StartFields.latched] using scriptOver
  · simpa [StartFields.latched, State.BufCanonical] using canonical
  · simp
  · simp [StartFields.latched, accepted]
  · simp [StartFields.latched]

/-- From the frame to `Done`: the turn to reading, the acknowledgment, the pieces, the end of the payload, the turn to the
completion, and the completion (R132). -/
theorem leads_readData (p : ReadStage) (rs : List ReadAnswer) (pieces : List (List Byte))
    (ne : ∀ piece ∈ pieces, piece ≠ []) (whole : pieces.flatten.length = p.length.toNat) :
    Leads (1 + (1 + (pieces.length + (1 + (1 + 1)))))
      { p with
        st := .frameSent, received := [],
        readAnswers := ⟨[ackValue], false⟩ :: ((pieces.map fun piece => ⟨piece, false⟩) ++
          ⟨[successValue], false⟩ :: rs) }
      { p with
        st := .done, received := pieces.flatten, transactions := p.transactions + 1 + pieces.length + 1,
        readAnswers := rs } := by
  have acknowledged := leads_marker .ack { p with received := [] }
    ((pieces.map fun piece => ⟨piece, false⟩) ++ ⟨[successValue], false⟩ :: rs)
  have read := leads_pieces { p with received := [], transactions := p.transactions + 1 } (⟨[successValue], false⟩ :: rs)
    pieces ne ((Nat.zero_add _).trans_le whole.le)
  have completed := leads_marker .completion
    { p with received := pieces.flatten, transactions := p.transactions + 1 + pieces.length } rs
  exact (leads_turnToRead rfl).trans <| acknowledged.trans <| read.trans <| (leads_payloadDone rfl whole).trans <|
    (leads_turnToCompletion rfl).trans completed

/-- Non-empty pieces are no more than their bytes. -/
theorem length_le_length_flatten {α : Type} {pieces : List (List α)} (ne : ∀ piece ∈ pieces, piece ≠ []) :
    pieces.length ≤ pieces.flatten.length := by
  rw [List.length_flatten, ← List.length_map (f := List.length)]
  refine List.length_le_sum_of_one_le _ fun n hn => ?_
  obtain ⟨piece, mem, rfl⟩ := List.mem_map.1 hn
  exact List.length_pos_iff.2 (ne piece mem)

/-- Settles O59: the `Start`, the stages of the operation by their steps, and the wait in `Done` for the rest of the bound. -/
theorem readDataReturnsWhatArrived : Obligations.ReadDataReturnsWhatArrived := by
  intro a len pieces q s ws rs idle canonical one d writes reads ne whole
  obtain ⟨u, started, first⟩ := start_atStage idle canonical one d writes
  rw [reads] at first
  have ends := leads_readData ⟨.frameSent, len, [], s.history.length + 1, ws, s.readAnswers⟩ rs pieces ne whole
  have waits := ends.trans (leads_done (len.toNat - pieces.length) rfl)
  obtain ⟨t, run, last⟩ := waits u first
  have short : pieces.length ≤ len.toNat := (length_le_length_flatten ne).trans_eq whole
  refine ⟨t, ?_, last.st, last.noError, last.cnt_eq whole, ?_, ?_, last.writeAnswers, last.readAnswers⟩
  · rw [← run, ← steps_succ_of_step started]
    congr 1
    omega
  · rw [State.rdata_of_readDone last.st last.hop, last.payloadBytes whole]
  · rw [last.history]
    change s.history.length + 1 + 1 + pieces.length + 1 = _
    omega

end Sys2Proof.Machine
end

section
/-! PROOFS. The big-step view and the small steps are one behaviour (R136): each routine of the pseudocode is one step
of the controller, and a run of steps follows the pseudocode routine by routine. -/

namespace Sys2Proof.Machine

open Sys2Proof

/-! ## Routines put together -/

theorem Routine.andThen_assoc (r : Routine) (k l : State → Routine) :
    (r.andThen k).andThen l = r.andThen fun t => (k t).andThen l := by
  cases r <;> rfl

theorem Routine.andThen_ok (r : Routine) : r.andThen .ok = r := by
  cases r <;> rfl

/-- A sequence goes on when both of its parts do. -/
theorem Routine.andThen_ok_iff {r : Routine} {k : State → Routine} {u : State} :
    r.andThen k = .ok u ↔ ∃ t, r = .ok t ∧ k t = .ok u := by
  cases r <;> simp [Routine.andThen]

/-- A routine that raises leaves the block in `Failed` (R190). -/
def Routine.RaisesToFailed (r : Routine) : Prop := ∀ t, r = .raised t → t.st = .failed

theorem Routine.RaisesToFailed.raise (s : State) (e : Error) : (Routine.raised (s.raise e)).RaisesToFailed := by
  rintro t ⟨⟩
  rfl

theorem Routine.RaisesToFailed.ok (s : State) : (Routine.ok s).RaisesToFailed := nofun

theorem Routine.RaisesToFailed.refused (r : Refusal) : (Routine.refused r).RaisesToFailed := nofun

theorem Routine.RaisesToFailed.andThen {r : Routine} {k : State → Routine} (first : r.RaisesToFailed)
    (rest : ∀ t, (k t).RaisesToFailed) : (r.andThen k).RaisesToFailed := by
  cases r with
  | ok t => exact rest t
  | raised | refused => exact first

theorem runWriteAll_raisesToFailed (data : List Byte) (s : State) : (runWriteAll data s).RaisesToFailed := by
  unfold runWriteAll
  split
  · exact .refused _
  · split
    · exact .raise _ _
    · split
      · exact .raise _ _
      · exact .ok _

theorem runWaitByte_raisesToFailed (expected : Byte) (s : State) : (runWaitByte expected s).RaisesToFailed := by
  unfold runWaitByte
  split
  · exact .refused _
  · split
    · exact .raise _ _
    · split
      · exact .raise _ _
      · split
        · exact .raise _ _
        · exact .ok _

/-- One turn of `ReadExact` with bytes still missing (R115). -/
def runReadTurn (s : State) : Routine :=
  match s.chanRead s.missing with
  | none => .refused .answerOutsideDomain
  | some (a, t) =>
    if a.error then .raised (t.raise .transport)
    else if a.bytes = [] then .raised (t.raise .readTimeout)
    else .ok (t.storeReceived a.bytes)

theorem readLoop_more {s : State} (more : s.cnt < s.op0) (fuel : Nat) :
    readLoop (fuel + 1) s = (runReadTurn s).andThen (readLoop fuel) := by
  rw [readLoop, if_pos more, runReadTurn]
  cases s.chanRead s.missing with
  | none => rfl
  | some answered =>
    obtain ⟨⟨bytes, error⟩, t⟩ := answered
    cases error <;> cases bytes <;> rfl

theorem readLoop_complete {s : State} (complete : s.cnt = s.op0) (fuel : Nat) : readLoop fuel s = .ok s := by
  cases fuel with
  | zero => rfl
  | succ fuel => rw [readLoop, if_neg (complete ▸ BitVec.lt_irrefl _)]

theorem runReadTurn_raisesToFailed (s : State) : (runReadTurn s).RaisesToFailed := by
  unfold runReadTurn
  split
  · exact .refused _
  · split
    · exact .raise _ _
    · split
      · exact .raise _ _
      · exact .ok _

/-! ## The host's signals gone -/

/-- The state with nothing presented, now or later. -/
def State.settle (s : State) : State := { s with port := HostPort.quiet, script := [] }

theorem portless_settled (o : Host.Outcome State Fault Refusal) : portless (settled o) = settled o := by
  cases o <;> rfl

theorem step_settle (s : State) : step s.settle = s.settle.fetch.run := rfl

theorem State.settle_afterWrite (s : State) : s.settle.afterWrite = s.afterWrite.settle := by
  cases h : s.writeAnswers <;> simp only [State.afterWrite, State.settle, h]

theorem State.settle_afterRead (s : State) : s.settle.afterRead = s.afterRead.settle := by
  cases h : s.readAnswers <;> simp only [State.afterRead, State.settle, h]

/-! ## Each routine is one step -/

/-- `WriteAll` of the pseudocode and of the step (R118). -/
theorem writeAll_settle (s : State) (data : List Byte) (target : St) :
    s.settle.writeAll data target = settled ((runWriteAll data s).andThen fun t => .ok (t.enter target)).outcome := by
  have same : s.settle.writeAnswer data.length = s.writeAnswer data.length := rfl
  rw [State.writeAll_eq, State.settle_afterWrite, same, runWriteAll, State.chanWrite_eq]
  cases s.writeAnswer data.length with
  | none => rfl
  | some a =>
    obtain ⟨count, error⟩ := a
    cases error with
    | true => rfl
    | false =>
      by_cases short : count < data.length
      · simp only [State.afterWriteAll, onAnswer_some, Bool.false_eq_true, if_false, short, Option.map_some]
        rfl
      · simp only [State.afterWriteAll, onAnswer_some, Bool.false_eq_true, if_false, short, Option.map_some]
        rfl

/-- In a handshake wait any byte is compared with the marker awaited (R114). -/
theorem Awaits.receiveByte_eq {wait target : St} {marker : Byte} (w : Awaits wait marker target) {s : State}
    (h : s.st = wait) (b : Byte) : s.receiveByte b = s.compareByte marker b target := by
  cases w with
  | ack => exact State.receiveByte_ackAwaited h b
  | completion => exact State.receiveByte_completionAwaited h b

/-- `WaitByte` is the step of its handshake wait (R114, R153, R161). -/
theorem step_wait {wait target : St} {marker : Byte} (w : Awaits wait marker target) {s : State} (h : s.st = wait) :
    step s.settle = settled ((runWaitByte marker s).andThen fun t => .ok (t.enter target)).outcome := by
  have same : s.settle.readAnswer 1 = s.readAnswer 1 := rfl
  rw [step_settle, State.fetch_handshakeWait rfl (h ▸ w.wait), State.fetchMarker_run, State.settle_afterRead, same,
    runWaitByte, State.chanRead_eq]
  cases s.readAnswer 1 with
  | none => rfl
  | some a =>
    obtain ⟨bytes, error⟩ := a
    cases error with
    | true => rfl
    | false =>
      cases bytes with
      | nil => rfl
      | cons b bs =>
        have waiting : (s.afterRead.settle.record (.read 1 ⟨b :: bs, false⟩)).st = wait := s.afterRead_st.trans h
        have compared : State.afterMarker _ ⟨b :: bs, false⟩ = _ := w.receiveByte_eq waiting b
        rw [onAnswer_some, compared, State.compareByte]
        by_cases eq : b = marker
        · simp only [eq, if_true, if_false, Option.map_some, Bool.false_eq_true, ne_eq, not_true_eq_false]
          rfl
        · simp only [eq, if_true, if_false, Option.map_some, Bool.false_eq_true, ne_eq, not_false_eq_true]
          rfl

/-- A turn of `ReadExact` is the payload read of the step (R115, R158). -/
theorem payloadRead_settle (s : State) : s.settle.payloadRead = settled (runReadTurn s).outcome := by
  have same : s.settle.readAnswer s.settle.missing = s.readAnswer s.missing := rfl
  rw [State.payloadRead_eq, State.settle_afterRead, same, runReadTurn, State.chanRead_eq]
  cases s.readAnswer s.missing with
  | none => rfl
  | some a =>
    obtain ⟨bytes, error⟩ := a
    cases error <;> cases bytes <;> rfl

/-! ## What a routine that goes on has done -/

/-- `WriteAll` goes on exactly when the write is accepted whole without the error flag (R118). -/
theorem runWriteAll_ok_iff {data : List Byte} {s t : State} :
    runWriteAll data s = .ok t ↔
      s.writeAnswer data.length = some ⟨data.length, false⟩ ∧
        t = s.afterWrite.record (.write data ⟨data.length, false⟩) := by
  rw [runWriteAll, State.chanWrite_eq]
  cases answered : s.writeAnswer data.length with
  | none => simp
  | some a =>
    have le := State.writeAnswer_le answered
    obtain ⟨count, error⟩ := a
    cases error with
    | true => simp
    | false =>
      by_cases short : count < data.length
      · simp [short, short.ne]
      · obtain rfl : count = data.length := by
          dsimp at le
          omega
        simp [eq_comm]

/-- `WaitByte` goes on exactly when the read delivers the expected byte without the error flag (R114). -/
theorem runWaitByte_ok_iff {expected : Byte} {s t : State} :
    runWaitByte expected s = .ok t ↔
      s.readAnswer 1 = some ⟨[expected], false⟩ ∧ t = s.afterRead.record (.read 1 ⟨[expected], false⟩) := by
  rw [runWaitByte, State.chanRead_eq]
  cases answered : s.readAnswer 1 with
  | none => simp
  | some a =>
    have le := State.readAnswer_le answered
    obtain ⟨bytes, error⟩ := a
    cases error with
    | true => simp
    | false =>
      cases bytes with
      | nil => simp
      | cons b bs =>
        obtain rfl : bs = [] := by simpa using le
        by_cases eq : b = expected
        · simp [eq, eq_comm]
        · simp [eq]

/-- A write moves the channel alone. -/
theorem runWriteAll_keeps {data : List Byte} {s t : State} (h : runWriteAll data s = .ok t) :
    ∃ c, t = s.withChannel c := by
  obtain ⟨-, rfl⟩ := runWriteAll_ok_iff.1 h
  exact s.afterWrite_record_eq_withChannel _

/-- A handshake read moves the channel alone. -/
theorem runWaitByte_keeps {expected : Byte} {s t : State} (h : runWaitByte expected s = .ok t) :
    ∃ c, t = s.withChannel c := by
  obtain ⟨-, rfl⟩ := runWaitByte_ok_iff.1 h
  exact s.afterRead_record_eq_withChannel _

/-- A turn of `ReadExact` that goes on has stored at least one byte and no more than were missing (R115). -/
theorem runReadTurn_ok {s t : State} (h : runReadTurn s = .ok t) :
    ∃ c bytes, bytes ≠ [] ∧ bytes.length ≤ s.missing ∧ t = (s.withChannel c).storeReceived bytes := by
  rw [runReadTurn, State.chanRead_eq] at h
  cases answered : s.readAnswer s.missing with
  | none => simp [answered] at h
  | some a =>
    have le := State.readAnswer_le answered
    obtain ⟨c, channel⟩ := s.afterRead_record_eq_withChannel (.read s.missing a)
    obtain ⟨bytes, error⟩ := a
    rw [answered] at h
    cases error with
    | true => cases h
    | false =>
      cases bytes with
      | nil => cases h
      | cons b bs =>
        cases h
        exact ⟨c, b :: bs, nofun, le, congrArg (State.storeReceived · (b :: bs)) channel⟩

/-! ## Runs that follow a routine -/

/-- Every run of at least `n` steps has the outcome of the routine, up to the host's signals being gone. -/
def Follows (n : Nat) (s : State) (r : Routine) : Prop := ∀ m, n ≤ m → steps m s = settled r.outcome

theorem Follows.mono {n n' : Nat} {s : State} {r : Routine} (h : Follows n s r) (le : n ≤ n') : Follows n' s r :=
  fun m hm => h m (le.trans hm)

/-- `n` more steps after an outcome. -/
def resume (n : Nat) : Host.Outcome State Fault Refusal → Host.Outcome State Fault Refusal
  | .next t => steps n t
  | .fault r => .fault r
  | .refused r => .refused r

theorem steps_succ_eq_resume (n : Nat) (s : State) : steps (n + 1) s = resume n (step s) := by
  rw [steps_succ]
  cases step s <;> rfl

/-- A step samples its own signals: those of the step before it are not read. -/
theorem resume_portless (n : Nat) (o : Host.Outcome State Fault Refusal) :
    resume (n + 1) (portless o) = resume (n + 1) o := by
  cases o with
  | next t =>
    have sampled : State.sample { t with port := HostPort.quiet } = t.sample := by
      cases script : t.script <;> simp only [State.sample, script]
    rw [portless, resume, resume, steps_succ, steps_succ, step, step, sampled]
  | fault | refused => rfl

/-- Without a `Return` the block stays at the end of an operation (R163, R164). -/
theorem Follows.ended {s : State} (h : s.st = .done ∨ s.st = .failed) : Follows 0 s.settle (.ok s) := by
  intro m _
  induction m with
  | zero => rfl
  | succ m ih =>
    rw [steps_succ, step_settle, State.fetch_ended (u := s.settle) rfl h]
    exact ih m.zero_le

/-- After a routine that went on the run follows the rest; after one that raised the block stays in `Failed` (R14). -/
theorem resume_andThen {n m : Nat} {r : Routine} {k : State → Routine} (raises : r.RaisesToFailed)
    (rest : ∀ t, r = .ok t → Follows n t.settle (k t)) (le : n ≤ m) :
    resume m (settled r.outcome) = settled (r.andThen k).outcome := by
  cases r with
  | ok t => exact rest t rfl m le
  | raised t => exact Follows.ended (.inr (raises t rfl)) m m.zero_le
  | refused => rfl

/-- A step that runs a routine, and then a run that follows the rest. -/
theorem Follows.andThen {n : Nat} {s : State} {r : Routine} {k : State → Routine} (first : step s = settled r.outcome)
    (raises : r.RaisesToFailed) (rest : ∀ t, r = .ok t → Follows n t.settle (k t)) :
    Follows (n + 1) s (r.andThen k) := by
  rintro (_ | m) le
  · exact absurd le (by omega)
  · rw [steps_succ_eq_resume, first, resume_andThen raises rest (by omega)]

/-- The first step leaves its signals on the port, where the next step overwrites them. -/
theorem Follows.start {n : Nat} {s : State} {r : Routine} {k : State → Routine}
    (first : portless (step s) = settled r.outcome) (raises : r.RaisesToFailed)
    (rest : ∀ t, r = .ok t → Follows (n + 1) t.settle (k t)) : Follows (n + 2) s (r.andThen k) := by
  rintro (_ | _ | m) le
  · exact absurd le (by omega)
  · exact absurd le (by omega)
  · rw [steps_succ_eq_resume, ← resume_portless, first, resume_andThen raises rest (by omega)]

/-- A step without a transaction (R152, R156, R159, R160). -/
theorem Follows.silent {n : Nat} {s t : State} {r : Routine} (first : step s = .next t.settle)
    (rest : Follows n t.settle r) : Follows (n + 1) s r :=
  .andThen (r := .ok t) (k := fun _ => r) first (.ok t) fun _ went => by
    cases went
    exact rest

/-- The wait for a marker, and then the rest. -/
theorem Follows.wait {n : Nat} {wait target : St} {marker : Byte} (w : Awaits wait marker target) {s : State}
    {k : State → Routine} (h : s.st = wait)
    (rest : ∀ c, Follows n ((s.withChannel c).enter target).settle (k ((s.withChannel c).enter target))) :
    Follows (n + 1) s.settle (((runWaitByte marker s).andThen fun t => .ok (t.enter target)).andThen k) := by
  refine .andThen (step_wait w h) ((runWaitByte_raisesToFailed _ _).andThen fun t => .ok _) fun t ok => ?_
  obtain ⟨u, read, entered⟩ := Routine.andThen_ok_iff.1 ok
  obtain ⟨c, rfl⟩ := runWaitByte_keeps read
  cases entered
  exact rest c

/-! ## The parts of an operation -/

/-- The command of an operation by what its `Start` latches: the frame, then the acknowledgment (R130). -/
theorem runCommand_eq {f : StartFields} (opcode : latchedOpcode f.hop f.opc = f.opc) (s : State) :
    runCommand f.hop f.opc f.addr f.op0 f.payload s =
      ((runWriteAll f.frame (f.latched s)).andThen fun t => .ok (t.enter .frameSent)).andThen fun t =>
        (runWaitByte ackValue (t.enter .ackAwaited)).andThen fun t => .ok (t.enter .ackReceived) := by
  have latched : (s.latch f.hop f.opc f.addr f.op0).latchPayload f.payload = f.latched s := by
    simp [State.latch, State.latchPayload, StartFields.latched, opcode]
  rw [runCommand, latched, Routine.andThen_assoc]
  rfl

/-- The one `Start` that the host requests runs `WriteAll` of the frame (R151). -/
theorem portless_step_start {i : Instr} {q : HostPort} {s : State} {f : StartFields} (idle : s.st = .idle)
    (one : s.oneStart q) (d : decodePort q = .ok i) (l : i.startFields s.sample = some f) :
    portless (step s) =
      settled ((runWriteAll f.frame (f.latched s)).andThen fun t => .ok (t.enter .frameSent)).outcome := by
  obtain ⟨script, rst, start⟩ := one
  have sampled : s.sample = s.settle.withPort q := by simp [State.sample, script, State.settle, State.withPort]
  have noReset : s.noReset := by rw [State.noReset, sampled]; exact rst
  have fetched : s.sample.fetchStart = .instr i s.sample :=
    State.fetchStart_instr (by rw [sampled]; exact start) (by rw [sampled]; exact d)
  have sent : exec i s.sample = ((f.latched s).settle.withPort q).writeAll f.frame .frameSent := by
    rw [exec_start_idle l (s.sample_st.trans idle), State.writeAll_eq, sampled]
    rfl
  rw [step_idle noReset idle, fetched, Fetch.run, sent, portless_writeAll, writeAll_settle, portless_settled]

/-- From `Idle` to `AckReceived`: the frame, the turn to reading and the acknowledgment; then the rest. -/
theorem Follows.command {i : Instr} {q : HostPort} {s : State} {f : StartFields} {n : Nat} {k : State → Routine}
    (idle : s.st = .idle) (one : s.oneStart q) (d : decodePort q = .ok i) (l : i.startFields s.sample = some f)
    (rest : ∀ c, Follows n (((f.latched s).withChannel c).enter .ackReceived).settle
      (k (((f.latched s).withChannel c).enter .ackReceived))) :
    Follows (n + 3) s ((runCommand f.hop f.opc f.addr f.op0 f.payload s).andThen k) := by
  obtain ⟨-, opcode⟩ := exec_start l
  rw [runCommand_eq opcode, Routine.andThen_assoc]
  refine .start (portless_step_start idle one d l) ((runWriteAll_raisesToFailed _ _).andThen fun t => .ok _)
    fun t ok => ?_
  obtain ⟨u, written, entered⟩ := Routine.andThen_ok_iff.1 ok
  obtain ⟨c, rfl⟩ := runWriteAll_keeps written
  cases entered
  exact .silent (t := ((f.latched s).withChannel c).enter .ackAwaited) rfl (.wait .ack rfl rest)

/-- The completion: the turn to it and the wait for its marker (R131, R132). -/
theorem Follows.completion {s : State} (h : s.st = .payloadTransferred) : Follows 2 s.settle (runCompletion s) := by
  have turned : step s.settle = .next (s.enter .completionAwaited).settle := by
    rw [step_settle, State.fetch_payloadTransferred (u := s.settle) rfl h]
    rfl
  have waited : Follows 1 (s.enter .completionAwaited).settle ((runCompletion s).andThen .ok) :=
    .wait .completion rfl fun c => .ended (.inl rfl)
  rw [Routine.andThen_ok] at waited
  exact .silent turned waited

/-! ## The operations -/

/-- Settles O52: after the command the step out of `AckReceived` ends the operation without a transaction (R156). -/
theorem sendCommandRunsAsItsPseudocode : Obligations.SendCommandRunsAsItsPseudocode := by
  intro o a p q s n idle one d
  have fields : Instr.startFields (.sendCommand o a p) s.sample = some ⟨0#2, o, a, p, []⟩ := rfl
  refine Follows.command (n := 1) (k := fun t => .ok (t.enter .done)) idle one d fields (fun c => ?_) n
  exact .silent (t := State.enter _ .done) rfl (.ended (.inl rfl))

/-- A presented payload has at most 255 bytes (R37). -/
theorem payload_le_of_decodePort {q : HostPort} {a : Addr} {payload : List Byte}
    (d : decodePort q = .ok (.writePageOp a payload)) : payload.length ≤ 255 := by
  rcases decodePort_cases d with selected | ⟨-, -, named⟩ | ⟨-, -, named⟩ | ⟨-, named⟩ | ⟨-, named⟩
  · rcases decodeHop_cases selected with ⟨-, row⟩ | ⟨-, fits, row⟩ | ⟨-, row⟩
    · cases row
    · cases row
      exact fits.trans_le (Nat.le_of_lt_succ q.op0.isLt)
    · cases row
  all_goals cases named

/-- The payload of `WritePage` and its completion (R131). -/
theorem Follows.page {s : State} (st : s.st = .ackReceived) (hop : s.hop = hopWritePage) :
    Follows 3 s.settle ((runWriteAll s.payloadBytes s).andThen runCompletion) := by
  have written : step s.settle =
      settled ((runWriteAll s.payloadBytes s).andThen fun t => .ok (t.enter .payloadTransferred)).outcome := by
    rw [step_settle, State.fetch_ackReceived (u := s.settle) rfl st, Fetch.run,
      State.payloadPhase_writePage (u := s.settle) hop]
    exact writeAll_settle s s.payloadBytes .payloadTransferred
  have phases : (runWriteAll s.payloadBytes s).andThen runCompletion =
      ((runWriteAll s.payloadBytes s).andThen fun t => .ok (t.enter .payloadTransferred)).andThen runCompletion := by
    rw [Routine.andThen_assoc]
    rfl
  rw [phases]
  refine .andThen written ((runWriteAll_raisesToFailed _ _).andThen fun t => .ok _) fun t ok => .completion ?_
  obtain ⟨u, -, entered⟩ := Routine.andThen_ok_iff.1 ok
  cases entered
  rfl

/-- Settles O53: the payload is one more write, and the completion one more wait. -/
theorem writePageRunsAsItsPseudocode : Obligations.WritePageRunsAsItsPseudocode := by
  intro a payload q s n idle one d
  have le := payload_le_of_decodePort d
  have fields : Instr.startFields (.writePageOp a payload) s.sample =
      some ⟨1#2, 2#8, a, BitVec.ofNat 8 payload.length, payload⟩ := if_pos le
  rw [runWritePage, payloadOperand_of_le le]
  exact Follows.command (n := 3) idle one d fields (fun c => .page rfl rfl) n

/-- With all the bytes received the payload phase of `ReadData` ends without a transaction (R159), and the completion
follows. -/
theorem Follows.payloadComplete {s : State} (st : s.st = .ackReceived) (hop : s.hop = hopReadData)
    (complete : s.cnt = s.op0) : Follows 3 s.settle (runCompletion s) := by
  have ended : step s.settle = .next (s.enter .payloadTransferred).settle := by
    rw [step_settle, State.fetch_ackReceived (u := s.settle) rfl st, Fetch.run,
      State.payloadPhase_readComplete (u := s.settle) hop complete]
    rfl
  exact .silent ended (.completion (s := s.enter .payloadTransferred) rfl)

/-- With bytes missing the step out of `AckReceived` is a turn of `ReadExact` (R115, R158). -/
theorem step_payloadRead {s : State} (st : s.st = .ackReceived) (hop : s.hop = hopReadData) (more : s.cnt < s.op0) :
    step s.settle = settled (runReadTurn s).outcome := by
  rw [step_settle, State.fetch_ackReceived (u := s.settle) rfl st, Fetch.run,
    State.payloadPhase_readMissing (u := s.settle) hop more, payloadRead_settle]

/-- The payload loop of `ReadData` with at most `fuel` bytes missing, and its completion (R115, R132): each turn is one
step and stores at least one byte. -/
theorem Follows.payloadLoop (fuel : Nat) {s : State} (st : s.st = .ackReceived) (hop : s.hop = hopReadData)
    (bounded : s.cnt ≤ s.op0) (enough : s.missing ≤ fuel) :
    Follows (fuel + 3) s.settle ((readLoop fuel s).andThen runCompletion) := by
  induction fuel generalizing s with
  | zero =>
    have complete : s.cnt = s.op0 := by
      rw [State.missing] at enough
      bv_omega
    exact .payloadComplete st hop complete
  | succ fuel ih =>
    by_cases complete : s.cnt = s.op0
    · rw [readLoop_complete complete]
      exact (Follows.payloadComplete st hop complete).mono (Nat.le_add_left 3 _)
    have more : s.cnt < s.op0 := by bv_omega
    rw [readLoop_more more, Routine.andThen_assoc, Nat.add_right_comm]
    refine .andThen (step_payloadRead st hop more) (runReadTurn_raisesToFailed s) fun t ok => ?_
    obtain ⟨c, bytes, some_byte, le, rfl⟩ := runReadTurn_ok ok
    have counted := State.storeReceived_cnt_toNat (s := s.withChannel c) bounded le
    have stored := List.length_pos_iff.2 some_byte
    have fits : s.cnt.toNat + bytes.length ≤ s.op0.toNat := by
      rw [State.missing] at le
      omega
    refine ih st hop ?_ ?_
    · rw [BitVec.le_def, counted]
      exact fits
    · rw [State.missing] at enough ⊢
      rw [counted]
      change s.op0.toNat - (s.cnt.toNat + bytes.length) ≤ fuel
      omega

/-- Settles O54: after the command the counter is 0 and all of `op0` is missing. -/
theorem readDataRunsAsItsPseudocode : Obligations.ReadDataRunsAsItsPseudocode := by
  intro a len q s n idle one d le
  have fields : Instr.startFields (.readDataOp a len) s.sample = some ⟨2#2, 3#8, a, len, []⟩ := rfl
  refine Follows.command (n := len.toNat + 3) (k := fun t => (runReadExact t).andThen runCompletion) idle one d fields
    (fun c => ?_) n (by omega)
  exact .payloadLoop len.toNat rfl rfl (BitVec.le_def.2 (Nat.zero_le _)) (Nat.sub_le ..)

end Sys2Proof.Machine
end

section
/-! PROOFS. When an operation ends in `Done`: by its pseudocode, exactly when every routine of it goes on. -/

namespace Sys2Proof.Machine

open Sys2Proof

/-! ## Routines that go on -/

/-- The routine raises nothing and meets no answer outside the domain. -/
def Routine.GoesOn (r : Routine) : Prop := ∃ t, r = .ok t

theorem Routine.andThen_goesOn_iff {r : Routine} {k : State → Routine} :
    (r.andThen k).GoesOn ↔ ∃ t, r = .ok t ∧ (k t).GoesOn := by
  cases r <;> simp [Routine.andThen, Routine.GoesOn]

/-- An operation that can end in `Done` or by raising ends in `Done` exactly when it goes on to its end. -/
theorem holdsNext_done_iff {r : Routine} (raises : r.RaisesToFailed) (ends : ∀ t, r = .ok t → t.st = .done) :
    holdsNext (fun t => t.st = .done) (settled r.outcome) ↔ r.GoesOn := by
  cases r with
  | ok t => exact ⟨fun _ => ⟨t, rfl⟩, fun _ => ends t rfl⟩
  | raised t => exact ⟨fun done => absurd ((raises t rfl).symm.trans done) nofun, nofun⟩
  | refused => exact ⟨nofun, nofun⟩

/-! ## Against scripted answers -/

/-- A write against a scripted answer, and the rest, which depends on what the write leaves of the script (R118). -/
theorem writeAll_goesOn_iff {s : State} {w : WriteAnswer} {ws : List WriteAnswer} {k : State → Routine} {P : Prop}
    (writes : s.writeAnswers = w :: ws) (data : List Byte)
    (rest : ∀ c : ChannelSide, c.writeAnswers = ws → c.readAnswers = s.readAnswers →
      ((k (s.withChannel c)).GoesOn ↔ P)) :
    ((runWriteAll data s).andThen k).GoesOn ↔ w = ⟨data.length, false⟩ ∧ P := by
  have answer : s.writeAnswer data.length = some ⟨data.length, false⟩ ↔ w = ⟨data.length, false⟩ := by
    simp only [State.writeAnswer, writes, Option.ite_none_right_eq_some, Option.some.injEq]
    exact and_iff_right_of_imp fun eq => (congrArg WriteAnswer.count eq).le
  have moved (x : Transaction) : s.afterWrite.record x =
      s.withChannel ⟨s.history ++ [x], ws, s.readAnswers, s.freeCount⟩ := by
    simp only [State.afterWrite, writes]
    rfl
  simp only [Routine.andThen_goesOn_iff, runWriteAll_ok_iff, and_assoc, exists_and_left, exists_eq_left, answer, moved]
  exact and_congr_right fun _ => rest _ rfl rfl

/-- A handshake read against a scripted answer, and the rest (R114). -/
theorem waitByte_goesOn_iff {s : State} {r : ReadAnswer} {rs : List ReadAnswer} {k : State → Routine} {P : Prop}
    (reads : s.readAnswers = r :: rs) (expected : Byte)
    (rest : ∀ c : ChannelSide, c.writeAnswers = s.writeAnswers → c.readAnswers = rs →
      ((k (s.withChannel c)).GoesOn ↔ P)) :
    ((runWaitByte expected s).andThen k).GoesOn ↔ r = ⟨[expected], false⟩ ∧ P := by
  have answer : s.readAnswer 1 = some ⟨[expected], false⟩ ↔ r = ⟨[expected], false⟩ := by
    simp only [State.readAnswer, reads, Option.ite_none_right_eq_some, Option.some.injEq]
    exact and_iff_right_of_imp fun eq => (congrArg (List.length ∘ ReadAnswer.bytes) eq).le
  have moved (x : Transaction) : s.afterRead.record x =
      s.withChannel ⟨s.history ++ [x], s.writeAnswers, rs, s.freeCount⟩ := by
    simp only [State.afterRead, reads]
    rfl
  simp only [Routine.andThen_goesOn_iff, runWaitByte_ok_iff, and_assoc, exists_and_left, exists_eq_left, answer, moved]
  exact and_congr_right fun _ => rest _ rfl rfl

theorem Routine.ok_goesOn_iff (s : State) : (Routine.ok s).GoesOn ↔ True := iff_true_intro ⟨s, rfl⟩

/-- The command goes on to the rest exactly when its frame is accepted whole and acknowledged (R130). -/
theorem command_goesOn_iff {f : StartFields} {s : State} {w : WriteAnswer} {r : ReadAnswer} {ws : List WriteAnswer}
    {rs : List ReadAnswer} {k : State → Routine} {P : Prop} (opcode : latchedOpcode f.hop f.opc = f.opc)
    (writes : s.writeAnswers = w :: ws) (reads : s.readAnswers = r :: rs)
    (rest : ∀ t : State, t.op0 = f.op0 → t.writeAnswers = ws → t.readAnswers = rs → ((k t).GoesOn ↔ P)) :
    ((runCommand f.hop f.opc f.addr f.op0 f.payload s).andThen k).GoesOn ↔
      w = ⟨4, false⟩ ∧ r = ⟨[199#8], false⟩ ∧ P := by
  rw [runCommand_eq opcode, Routine.andThen_assoc, Routine.andThen_assoc]
  refine writeAll_goesOn_iff (s := f.latched s) writes f.frame fun c cw cr => ?_
  refine (congrArg Routine.GoesOn (Routine.andThen_assoc ..)).to_iff.trans ?_
  exact waitByte_goesOn_iff (s := ((f.latched s).withChannel c).enter .ackAwaited) (cr.trans reads) ackValue
    fun c' cw' cr' => rest _ rfl (cw'.trans cw) cr'

/-- The completion goes on exactly when its marker arrives (R131). -/
theorem completion_goesOn_iff {s : State} {r : ReadAnswer} {rs : List ReadAnswer} (reads : s.readAnswers = r :: rs) :
    (runCompletion s).GoesOn ↔ r = ⟨[0#8], false⟩ :=
  (waitByte_goesOn_iff (s := (s.enter .payloadTransferred).enter .completionAwaited) reads successValue
    (k := fun t => .ok (t.enter .done)) fun _ _ _ => Routine.ok_goesOn_iff _).trans (and_iff_left trivial)

/-! ## Operations that end in `Done` -/

theorem runCommand_raisesToFailed (hop : BitVec 2) (o : Byte) (a : Addr) (p : Byte) (payload : List Byte) (s : State) :
    (runCommand hop o a p payload s).RaisesToFailed :=
  (runWriteAll_raisesToFailed _ _).andThen fun _ => (runWaitByte_raisesToFailed _ _).andThen fun _ => .ok _

theorem runCompletion_raisesToFailed (s : State) : (runCompletion s).RaisesToFailed :=
  (runWaitByte_raisesToFailed _ _).andThen fun _ => .ok _

theorem runCompletion_done {s t : State} (h : runCompletion s = .ok t) : t.st = .done := by
  obtain ⟨u, -, ended⟩ := Routine.andThen_ok_iff.1 h
  cases ended
  rfl

/-- Settles O58: the run follows the pseudocode, which goes on past the frame and the acknowledgment only. -/
theorem sendCommandSucceedsExactlyWhen : Obligations.SendCommandSucceedsExactlyWhen := by
  intro o a p q s w r ws rs idle one d writes reads
  have raises : (runSendCommand o a p s).RaisesToFailed :=
    .andThen (runCommand_raisesToFailed _ _ _ _ _ _) fun _ => .ok _
  have ends (t : State) (ok : runSendCommand o a p s = .ok t) : t.st = .done := by
    obtain ⟨u, -, ended⟩ := Routine.andThen_ok_iff.1 ok
    cases ended
    rfl
  rw [sendCommandRunsAsItsPseudocode o a p q s 4 idle one d le_rfl, holdsNext_done_iff raises ends]
  have answers := command_goesOn_iff (f := ⟨0#2, o, a, p, []⟩) (k := fun t => .ok (t.enter .done)) rfl writes reads
    fun t _ _ _ => Routine.ok_goesOn_iff _
  rwa [and_true] at answers

/-- Settles O57: after the command the pseudocode goes on past the payload and the completion. -/
theorem writePageSucceedsExactlyWhen : Obligations.WritePageSucceedsExactlyWhen := by
  intro a payload q s w1 w2 r1 r2 ws rs idle one d writes reads
  have le := payload_le_of_decodePort d
  have operand := payloadOperand_of_le le
  have page : runWritePage a payload s =
      (runCommand hopWritePage opWritePage a (BitVec.ofNat 8 payload.length) payload s).andThen fun t =>
        (runWriteAll t.payloadBytes t).andThen runCompletion := by
    rw [runWritePage, operand]
  have raises : (runWritePage a payload s).RaisesToFailed := by
    rw [page]
    exact .andThen (runCommand_raisesToFailed _ _ _ _ _ _) fun t =>
      .andThen (runWriteAll_raisesToFailed _ _) runCompletion_raisesToFailed
  have ends (t : State) (ok : runWritePage a payload s = .ok t) : t.st = .done := by
    rw [page] at ok
    obtain ⟨u, -, sent⟩ := Routine.andThen_ok_iff.1 ok
    obtain ⟨v, -, completed⟩ := Routine.andThen_ok_iff.1 sent
    exact runCompletion_done completed
  rw [writePageRunsAsItsPseudocode a payload q s 6 idle one d le_rfl, holdsNext_done_iff raises ends, page]
  refine command_goesOn_iff (f := ⟨1#2, 2#8, a, BitVec.ofNat 8 payload.length, payload⟩) rfl writes reads
    fun t op0 tw tr => ?_
  have length : t.payloadBytes.length = payload.length := by
    rw [State.payloadBytes_length, State.len, op0]
    exact payloadOperand_toNat operand
  rw [← length]
  exact writeAll_goesOn_iff tw _ fun c _ cr => completion_goesOn_iff (cr.trans tr)

end Sys2Proof.Machine
end

section
/-! PROOFS. The three operations in `Idle` with the frame accepted whole (R130 to R132, R151). -/

namespace Sys2Proof.Machine

open Sys2Proof

/-- Settles O14: any opcode is latched, and no payload. -/
theorem sendCommandSendsItsFrame : Obligations.SendCommandSendsItsFrame := by
  intro o a p s idle accepted
  have fields : Instr.startFields (.sendCommand o a p) s = some ⟨0#2, o, a, p, []⟩ := rfl
  exact exec_start_accepted fields idle accepted

/-- Settles O15: the payload is latched from index 0 up, and its length is the operand. -/
theorem writePageSendsItsFrame : Obligations.WritePageSendsItsFrame := by
  intro a payload s le idle accepted
  have fields : Instr.startFields (.writePageOp a payload) s =
      some ⟨1#2, 2#8, a, BitVec.ofNat 8 payload.length, payload⟩ := if_pos le
  rw [exec_start_accepted fields idle accepted, ← s.afterWrite_buf]
  rfl

/-- Settles O16: the opcode is 3 and the operand the length asked for. -/
theorem readDataSendsItsFrame : Obligations.ReadDataSendsItsFrame := by
  intro a n s idle accepted
  have fields : Instr.startFields (.readDataOp a n) s = some ⟨2#2, 3#8, a, n, []⟩ := rfl
  exact exec_start_accepted fields idle accepted

end Sys2Proof.Machine
end

section
/-! PROOFS. What a step does by the state of the controller (R151 to R167): the silent steps, `Return`, the waiting, and
the ends of the four transactions for every answer. -/

namespace Sys2Proof.Machine

open Sys2Proof

/-! ## The silent steps -/

theorem step_frameSent {s : State} (r : s.noReset) (h : s.st = .frameSent) :
    step s = .next (s.sample.enter .ackAwaited) := by
  rw [step, State.fetch_frameSent r (s.sample_st.trans h)]
  rfl

theorem step_payloadTransferred {s : State} (r : s.noReset) (h : s.st = .payloadTransferred) :
    step s = .next (s.sample.enter .completionAwaited) := by
  rw [step, State.fetch_payloadTransferred r (s.sample_st.trans h)]
  rfl

/-- Settles O29: the two turns of the channel, and the two payload phases that have nothing to transfer. -/
theorem silentStepsChangeStAlone : Obligations.SilentStepsChangeStAlone := by
  refine fun s r => ⟨step_frameSent r, fun h send => ?_, fun h read complete => ?_, step_payloadTransferred r⟩
  · rw [step_ackReceived r h, State.payloadPhase_sendCommand (s.sample_hop.trans send)]
    rfl
  · have all : s.sample.cnt = s.sample.op0 := by simpa using complete
    rw [step_ackReceived r h, State.payloadPhase_readComplete (s.sample_hop.trans read) all]
    rfl

/-! ## The ends of an operation, and the waiting -/

/-- In `Done` and `Failed` the step is the host's `Return`, or a wait (R163, R164, R167). -/
theorem step_ended {s : State} (r : s.noReset) (h : s.st = .done ∨ s.st = .failed) :
    step s = .next (if s.sample.port.ret then s.sample.enter .idle else s.sample) := by
  rw [step, State.fetch_ended r (by simpa using h)]
  rfl

/-- Settles O35: the requested `Return` of both ends. -/
theorem returnGoesToIdle : Obligations.ReturnGoesToIdle := fun s r h ret => by
  rw [step_ended r h, if_pos ret]
  rfl

/-- Settles O37: no `Return` at an end, and no `Start` in `Idle`, is a wait. -/
theorem doneAndFailedAreTerminal : Obligations.DoneAndFailedAreTerminal := by
  refine ⟨fun s r h ret => ?_, fun s r idle start => ?_⟩
  · rw [step_ended r h, ret]
    rfl
  · rw [step_idle r idle, State.fetchStart_run, start]
    rfl

/-! ## A `Start` that is not taken, a marker that is awaited -/

/-- Settles O21: whatever a `Start` would latch, outside `Idle` it is refused. -/
theorem startOutsideIdleChangesNothing : Obligations.StartOutsideIdleChangesNothing := fun i f s fields busy => by
  obtain ⟨started, -⟩ := exec_start fields
  rw [started, State.startOperation_busy busy]

/-- Settles O26: the acknowledgment wait awaits the marker `ACK`. -/
theorem ackEndsTheAcknowledgmentWait : Obligations.AckEndsTheAcknowledgmentWait := fun s h => by
  rw [exec_ack, Awaits.ack.receiveByte h]
  rfl

/-- Settles O27: the completion wait awaits the marker `SUCCESS`. -/
theorem successMarkerEndsTheCompletionWait : Obligations.SuccessMarkerEndsTheCompletionWait := fun s h => by
  rw [exec_successHs, Awaits.completion.receiveByte h]
  rfl

/-! ## The ends of the four transactions -/

/-- What `WriteAll` writes by its answer: the error record, or the state it leads to (R118). -/
theorem State.afterWriteAll_eq (s : State) (a : WriteAnswer) (k : Nat) (target : St) :
    s.afterWriteAll a k target =
      if a.error then { s with st := .failed, err := .transport }
      else if a.count < k then { s with st := .failed, err := .shortWrite }
      else { s with st := target } := rfl

/-- Settles O20: the command is latched and its frame recorded, and then the three ends of `WriteAll`. -/
theorem frameWriteOutcomes : Obligations.FrameWriteOutcomes := by
  intro i f s w fields idle answered
  rw [exec_start_idle fields idle, answered, onAnswer_some, f.latched_afterWrite, State.afterWriteAll_eq,
    ← s.afterWrite_history, ← s.afterWrite_buf]
  rfl

/-- Settles O31: the payload is written whole, and then the three ends of `WriteAll`. -/
theorem payloadWriteOutcomes : Obligations.PayloadWriteOutcomes := by
  intro s w r h page answered
  have answer : s.sample.writeAnswer s.sample.payloadBytes.length = some w := by
    simpa [State.payloadBytes_length, State.len] using answered
  have bytes : s.sample.payloadBytes = s.buf.readRange 0 s.op0.toNat := by simp [State.payloadBytes, State.len]
  have length : s.sample.payloadBytes.length = s.op0.toNat := by simp [State.payloadBytes_length, State.len]
  have history : s.sample.afterWrite.history = s.history := by simp
  rw [step_ackReceived r h, State.payloadPhase_writePage (s.sample_hop.trans page), State.payloadWrite,
    State.writeAll_eq, answer, onAnswer_some, length, bytes, State.afterWriteAll_eq, ← history]
  rfl

/-- A payload read that is answered ends by its answer (R158). -/
theorem step_payloadRead_answered {s : State} {a : ReadAnswer} (r : s.noReset) (h : s.st = .ackReceived)
    (read : s.hop = hopReadData) (more : s.cnt < s.op0) (answered : s.readAnswer s.missing = some a) :
    step s = .next ((s.sample.afterRead.record (.read s.missing a)).afterPayloadRead a) := by
  have missing : s.sample.missing = s.missing := by simp [State.missing]
  rw [step_ackReceived r h, State.payloadPhase_readMissing (s.sample_hop.trans read) (by simpa using more),
    State.payloadRead_eq, missing, State.sample_readAnswer, answered, onAnswer_some]

/-- Settles O32: the error flag, then no byte, then the bytes stored and counted. -/
theorem payloadReadOutcomes : Obligations.PayloadReadOutcomes := by
  intro s a r h read more answered
  have history : s.sample.afterRead.history = s.history := by simp
  have buf : s.sample.afterRead.buf = s.buf := by simp
  have cnt : s.sample.afterRead.cnt = s.cnt := by simp
  have missing : s.op0.toNat - s.cnt.toNat = s.missing := rfl
  rw [step_payloadRead_answered r h read more answered, missing, ← history, ← buf, ← cnt]
  rfl

/-- Settles O33: the bytes stored are a range of the buffer from `cnt` up, which ends below `op0`. -/
theorem payloadReadStoresInArrivalOrder : Obligations.PayloadReadStoresInArrivalOrder := by
  intro s bytes r canonical h read more answered ne
  have le : bytes.length ≤ s.missing := State.readAnswer_le answered
  have fits := State.store_fits more le
  have depth := fits.trans s.op0_le_depth
  have stepped := step_payloadRead_answered r h read more answered
  rw [State.afterPayloadRead_of_ne ne] at stepped
  have buf (i : Nat) : ((s.sample.afterRead.record (.read s.missing ⟨bytes, false⟩)).storeReceived bytes).buf.read i =
      if inside : s.cnt.toNat ≤ i ∧ i < s.cnt.toNat + bytes.length then bytes[i - s.cnt.toNat]'(by omega)
      else s.buf.read i := by
    simpa using Memory.read_writeRange canonical s.cnt.toNat bytes depth i
  have cnt : ((s.sample.afterRead.record (.read s.missing ⟨bytes, false⟩)).storeReceived bytes).cnt.toNat =
      s.cnt.toNat + bytes.length := by
    simpa using State.storeReceived_cnt_toNat (Nat.le_of_lt more) le
  refine ⟨_, stepped, by simpa using h, cnt, cnt.trans_le fits, fun i hi => ?_, fun i outside => ?_⟩
  · rw [buf, dif_pos (by omega)]
    simp
  · rw [buf, dif_neg (by omega)]

/-- The two ends of the comparison, as they are written (R114). -/
theorem State.compareByte_eq (s : State) (expected actual : Byte) (target : St) :
    s.compareByte expected actual target =
      if actual = expected then { s with st := target }
      else { s with st := .failed, err := .handshake, errExp := expected, errAct := actual } := rfl

/-- Settles O30: each wait has its marker, and the read ends by the error flag, by no byte, or by the comparison. -/
theorem handshakeReadOutcomes : Obligations.HandshakeReadOutcomes := by
  intro s a expected onOk r hs answered
  have awaits : Awaits s.st expected onOk := by
    rcases hs with ⟨h, rfl, rfl⟩ | ⟨h, rfl, rfl⟩ <;> rw [h]
    · exact .ack
    · exact .completion
  have history : s.sample.afterRead.history = s.history := by simp
  rw [step_handshakeWait r awaits.wait, State.fetchMarker_run, State.sample_readAnswer, answered, onAnswer_some,
    ← history]
  obtain ⟨bytes, error⟩ := a
  cases error with
  | true => rfl
  | false =>
    cases bytes with
    | nil => rfl
    | cons b bs =>
      have waiting : (s.sample.afterRead.record (.read 1 ⟨b :: bs, false⟩)).st = s.st := by simp
      have compared : State.afterMarker _ ⟨b :: bs, false⟩ = _ := awaits.receiveByte_eq waiting b
      rw [compared, State.compareByte_eq]
      rfl

end Sys2Proof.Machine
end

section
/-! PROOFS. What a step can lead to: no fault where R41 holds (R165), the arrows of R166, the markers that the phases
are entered by (R155, R156), and `Return` where it is refused (R167). -/

namespace Sys2Proof.Machine

open Sys2Proof

/-! ## No fault -/

theorem onAnswer_ne_fault {α : Type} (answer : Option α) (k : α → State) (r : Fault) :
    onAnswer answer k ≠ .fault r := by
  cases answer <;> exact nofun

/-- The three selectors that R92 leaves. -/
theorem hop_cases {hop : BitVec 2} (legal : hop ≠ 3#2) :
    hop = hopSendCommand ∨ hop = hopWritePage ∨ hop = hopReadData := by
  unfold hopSendCommand hopWritePage hopReadData
  bv_omega

/-- With a legal selector and a bounded count some guard of the payload phase holds (R156 to R159, R165). -/
theorem State.payloadPhase_ne_fault {u : State} (legal : u.hop ≠ 3#2) (bounded : u.cnt ≤ u.op0) (r : Fault) :
    u.payloadPhase ≠ .fault r := by
  rcases hop_cases legal with send | page | read
  · rw [State.payloadPhase_sendCommand send]
    exact nofun
  · rw [State.payloadPhase_writePage page, State.payloadWrite, State.writeAll_eq]
    exact onAnswer_ne_fault _ _ r
  · by_cases complete : u.cnt = u.op0
    · rw [State.payloadPhase_readComplete read complete]
      exact nofun
    · have more : u.cnt < u.op0 := by bv_omega
      rw [State.payloadPhase_readMissing read more, State.payloadRead_eq]
      exact onAnswer_ne_fault _ _ r

/-- A requested `Start` has no fault, whatever its signals (R151). -/
theorem State.fetchStart_ne_fault {u : State} (idle : u.st = .idle) (r : Fault) : u.fetchStart.run ≠ .fault r := by
  rw [State.fetchStart_run]
  split
  · cases d : decodePort u.port with
    | error e => cases e <;> exact nofun
    | ok i =>
      change exec i u ≠ .fault r
      rcases decodePort_startFields d with ⟨f, fields⟩ | refused
      · rw [exec_start_idle fields idle]
        exact onAnswer_ne_fault _ _ r
      · rw [refused]
        exact nofun
  · exact nofun

/-- Where R41 holds a step has no fault: only the payload phase has one, and R41 meets one of its guards (R165). -/
theorem step_ne_fault {s : State} (inv : s.Inv) (r : Fault) : step s ≠ .fault r := by
  have marker (h : s.st = .ackAwaited ∨ s.st = .completionAwaited) (reset : s.noReset) : step s ≠ .fault r := by
    rw [step_handshakeWait reset h, State.fetchMarker_run]
    exact onAnswer_ne_fault _ _ r
  have ended (h : s.st = .done ∨ s.st = .failed) (reset : s.noReset) : step s ≠ .fault r := by
    rw [step_ended reset h]
    exact nofun
  cases reset : s.sample.port.rst with
  | true =>
    rw [step, State.fetch_reset reset]
    exact nofun
  | false =>
    cases h : s.st with
    | idle =>
      rw [step_idle reset h]
      exact State.fetchStart_ne_fault (s.sample_st.trans h) r
    | frameSent =>
      rw [step_frameSent reset h]
      exact nofun
    | ackAwaited => exact marker (.inl h) reset
    | ackReceived =>
      have armed := inv.sample.armed (s.sample.busy_iff.2 (by simp [h]))
      rw [step_ackReceived reset h]
      exact State.payloadPhase_ne_fault armed.legal armed.bounded r
    | payloadTransferred =>
      rw [step_payloadTransferred reset h]
      exact nofun
    | completionAwaited => exact marker (.inr h) reset
    | done => exact ended (.inl h) reset
    | failed => exact ended (.inr h) reset

theorem steps_ne_fault (n : Nat) {s : State} (inv : s.Inv) (r : Fault) : steps n s ≠ .fault r := by
  induction n generalizing s with
  | zero => exact nofun
  | succ n ih =>
    rw [steps_succ]
    cases stepped : step s with
    | next t => exact ih (controlInvariantIsKept s t inv stepped)
    | fault q => exact absurd stepped (step_ne_fault inv q)
    | refused q => exact nofun

/-- In a busy state that meets R41 a step gives a state, or stops for want of an answer (R165, R229). -/
theorem step_busy {s : State} (inv : s.Inv) (busy : s.busy = true) :
    (∃ t, step s = .next t) ∨ step s = .refused .answerOutsideDomain := by
  cases stepped : step s with
  | next t => exact .inl ⟨t, rfl⟩
  | fault r => exact absurd stepped (step_ne_fault inv r)
  | refused r => exact .inr (congrArg _ (step_refused_of_busy busy stepped))

/-- Settles O44: R41 is kept and meets a guard of every phase, and an answered step is not refused. -/
theorem noRunIsStuck : Obligations.NoRunIsStuck := by
  refine ⟨fun n s r inv => steps_ne_fault n inv r, fun s inv busy answered => ?_⟩
  rcases step_busy inv busy with next | stopped
  · exact next
  · exact absurd answered (by simp [step_refused_unanswered stopped])

/-! ## The arrows -/

/-- A state is `Idle`, an operation in progress, or the end of one (R22, R34). -/
theorem State.idle_or_busy_or_ended (s : State) : s.st = .idle ∨ s.busy = true ∨ s.st = .done ∨ s.st = .failed := by
  rw [State.busy_eq]
  cases s.st <;> simp [St.busy]

/-- Each handshake wait awaits its marker (R153, R161). -/
theorem exists_awaits {st : St} (h : st = .ackAwaited ∨ st = .completionAwaited) :
    ∃ wait marker target, st = wait ∧ Awaits wait marker target := by
  rcases h with h | h
  · exact ⟨_, _, _, h, .ack⟩
  · exact ⟨_, _, _, h, .completion⟩

/-- How a handshake read ends: an error, or the awaited marker and nothing beside it was delivered (R114). -/
theorem Awaits.afterMarker_cases {wait target : St} {marker : Byte} (w : Awaits wait marker target) {s : State}
    (h : s.st = wait) {a : ReadAnswer} (le : a.bytes.length ≤ 1) :
    (∃ e, s.afterMarker a = s.raise e) ∨ (a = ⟨[marker], false⟩ ∧ s.afterMarker a = s.enter target) := by
  obtain ⟨bytes, error⟩ := a
  cases error with
  | true => exact .inl ⟨.transport, rfl⟩
  | false =>
    cases bytes with
    | nil => exact .inl ⟨.readTimeout, rfl⟩
    | cons b bs =>
      obtain rfl : bs = [] := by simpa using le
      have compared : s.afterMarker ⟨[b], false⟩ = s.compareByte marker b target := w.receiveByte_eq h b
      rcases s.compareByte_cases marker b target with ⟨rfl, e⟩ | ⟨-, e⟩
      · exact .inr ⟨rfl, compared.trans e⟩
      · exact .inl ⟨_, compared.trans e⟩

/-- The two ends of the step of a handshake wait. -/
theorem State.markerRead_cases {u : State} {a : ReadAnswer} (h : u.st = .ackAwaited ∨ u.st = .completionAwaited)
    (answered : u.readAnswer 1 = some a) :
    (∃ e, (u.afterRead.record (.read 1 a)).afterMarker a = (u.afterRead.record (.read 1 a)).raise e) ∨
    ∃ wait marker target, u.st = wait ∧ Awaits wait marker target ∧ a = ⟨[marker], false⟩ ∧
      (u.afterRead.record (.read 1 a)).afterMarker a = (u.afterRead.record (.read 1 a)).enter target := by
  obtain ⟨wait, marker, target, hw, w⟩ := exists_awaits h
  have waiting : (u.afterRead.record (.read 1 a)).st = wait := u.afterRead_st.trans hw
  exact (w.afterMarker_cases waiting (State.readAnswer_le answered)).imp_right fun ⟨only, e⟩ =>
    ⟨wait, marker, target, hw, w, only, e⟩

/-- However a write ends, `st` is the state it leads to or `Failed` (R118). -/
theorem State.afterWriteAll_st {P : St → Prop} {target : St} (entered : P target) (raised : P .failed) (s : State)
    (a : WriteAnswer) (k : Nat) : P (s.afterWriteAll a k target).st := by
  rcases s.afterWriteAll_ends a k target with e | ⟨x, -, e⟩ <;> rw [e]
  · exact entered
  · exact raised

/-- Every step but a reset follows an arrow of R166, or waits. -/
theorem StepKind.arrow {u t : State} (k : StepKind u t) (r : u.port.rst = false) : arrow u.st t.st = true := by
  cases k with
  | reset reset => simp [r] at reset
  | wait _ h => rcases h with h | h | h <;> rw [h] <;> rfl
  | start _ h =>
    rw [h]
    exact State.afterWriteAll_st (P := fun x => Machine.arrow .idle x = true) rfl rfl ..
  | turnToRead _ h => rw [h]; rfl
  | marker _ h a answered =>
    rcases State.markerRead_cases h answered with ⟨x, e⟩ | ⟨wait, marker, target, hw, w, -, e⟩
    · rcases h with h | h <;> rw [h, e] <;> rfl
    · rw [hw, e]
      cases w <;> rfl
  | commandDone _ h => rw [h]; rfl
  | payloadWrite _ h =>
    rw [h]
    exact State.afterWriteAll_st (P := fun x => Machine.arrow .ackReceived x = true) rfl rfl ..
  | payloadRead _ h _ _ a =>
    rcases (u.afterRead.record (.read u.missing a)).afterPayloadRead_cases a with ⟨-, e⟩ | ⟨-, -, e⟩ | ⟨-, -, e⟩
    · rw [h, e]; rfl
    · rw [h, e]; rfl
    · simp [h, e, Machine.arrow]
  | payloadDone _ h => rw [h]; rfl
  | turnToCompletion _ h => rw [h]; rfl
  | hostReturn _ h => rcases h with h | h <;> rw [h] <;> rfl

/-- No operation in progress goes back to `Idle` (R166). -/
theorem not_busy_of_arrow_idle {x : St} (h : arrow x .idle = true) : x.busy = false := by
  cases x with
  | idle | done | failed => rfl
  | _ => cases h

/-- Settles O45: the arrows of each kind of step; without its event a host's arrow is a wait instead. -/
theorem onlyTheArrowsOfTheTable : Obligations.OnlyTheArrowsOfTheTable := by
  intro s t r h
  have follows : arrow s.st t.st = true := by simpa using (step_kind h).arrow r
  have waits (e : step s = .next s.sample) : t.st = s.st := by
    cases e.symm.trans h
    exact s.sample_st
  obtain ⟨ends, idles⟩ := doneAndFailedAreTerminal
  refine ⟨follows, fun idle left => ?_, fun active back => ?_⟩
  · by_contra start
    exact left ((waits (idles s r idle (by simpa using start))).trans idle)
  · by_contra ret
    rcases s.idle_or_busy_or_ended with idle | busy | ended
    · exact active idle
    · rw [back] at follows
      exact absurd busy (by simp [State.busy_eq, not_busy_of_arrow_idle follows])
    · exact active ((waits (ends s r ended (by simpa using ret))).symm.trans back)

/-! ## The markers of the phases -/

/-- `AckReceived` is entered by the marker `ACK` only (R155). -/
theorem StepKind.entered_ackReceived {u t : State} (k : StepKind u t) (entered : t.st = .ackReceived)
    (before : u.st ≠ .ackReceived) :
    u.st = .ackAwaited ∧ t.history = u.history ++ [.read 1 ⟨[ackValue], false⟩] := by
  cases k with
  | reset | turnToRead | commandDone | payloadDone | turnToCompletion | hostReturn => cases entered
  | wait => exact absurd entered before
  | payloadWrite _ h | payloadRead _ h => exact absurd h before
  | start => exact absurd entered (State.afterWriteAll_st (P := (· ≠ .ackReceived)) (by decide) (by decide) _ _ _)
  | marker _ h a answered =>
    rcases State.markerRead_cases h answered with ⟨x, e⟩ | ⟨wait, marker, target, hw, w, rfl, e⟩ <;>
      rw [e] at entered ⊢
    · cases entered
    · cases w with
      | ack => exact ⟨hw, by simp⟩
      | completion => cases entered

/-- `Done` is entered by the marker `SUCCESS`, or by a `SendCommand` from `AckReceived` (R156, R66). -/
theorem StepKind.entered_done {u t : State} (k : StepKind u t) (entered : t.st = .done) (before : u.st ≠ .done) :
    (u.st = .completionAwaited ∧ t.history = u.history ++ [.read 1 ⟨[successValue], false⟩]) ∨
    (u.st = .ackReceived ∧ u.hop = hopSendCommand ∧ t.history = u.history) := by
  cases k with
  | reset | turnToRead | payloadDone | turnToCompletion | hostReturn => cases entered
  | wait => exact absurd entered before
  | commandDone _ h send => exact .inr ⟨h, send, rfl⟩
  | start | payloadWrite =>
    exact absurd entered (State.afterWriteAll_st (P := (· ≠ .done)) (by decide) (by decide) _ _ _)
  | payloadRead _ h _ _ a =>
    rcases (u.afterRead.record (.read u.missing a)).afterPayloadRead_cases a with ⟨-, e⟩ | ⟨-, -, e⟩ | ⟨-, -, e⟩ <;>
      simp [e, h] at entered
  | marker _ h a answered =>
    rcases State.markerRead_cases h answered with ⟨x, e⟩ | ⟨wait, marker, target, hw, w, rfl, e⟩ <;>
      rw [e] at entered ⊢
    · cases entered
    · cases w with
      | ack => cases entered
      | completion => exact .inl ⟨hw, by simp⟩

/-- Settles O48: the two entries, for the signals sampled. -/
theorem phasesAreEnteredOnlyByTheirMarker : Obligations.PhasesAreEnteredOnlyByTheirMarker := by
  intro s t h
  have acknowledged := (step_kind h).entered_ackReceived
  have done := (step_kind h).entered_done
  simp only [State.sample_st, State.sample_hop, State.sample_history] at acknowledged done
  exact ⟨acknowledged, done⟩

/-! ## `Return` where it is refused -/

/-- In the middle of an operation the step reads no signal of the host but the reset (R150). -/
theorem portless_fetch_of_busy {s : State} (busy : s.busy = true) {p q : HostPort} (rst : p.rst = q.rst) :
    portless (s.withPort p).fetch.run = portless (s.withPort q).fetch.run := by
  cases r : q.rst with
  | true =>
    rw [State.fetch_reset (u := s.withPort p) (rst.trans r), State.fetch_reset (u := s.withPort q) r]
    rfl
  | false =>
    have rp : (s.withPort p).port.rst = false := rst.trans r
    have rq : (s.withPort q).port.rst = false := r
    have wait (h : s.st = .ackAwaited ∨ s.st = .completionAwaited) :
        portless (s.withPort p).fetch.run = portless (s.withPort q).fetch.run := by
      rw [State.fetch_handshakeWait rp h, State.fetch_handshakeWait rq h, portless_fetchMarker, portless_fetchMarker]
    rcases s.busy_iff.1 busy with h | h | h | h | h
    · rw [State.fetch_frameSent rp h, State.fetch_frameSent rq h]
      rfl
    · exact wait (.inl h)
    · rw [State.fetch_ackReceived rp h, State.fetch_ackReceived rq h]
      exact (portless_payloadPhase s p).trans (portless_payloadPhase s q).symm
    · rw [State.fetch_payloadTransferred rp h, State.fetch_payloadTransferred rq h]
      rfl
    · exact wait (.inr h)

/-- In `Idle` the step reads the reset, the `Start` and the row of its signals, and no other signal. -/
theorem portless_fetch_of_idle {s : State} (idle : s.st = .idle) {p q : HostPort} (rst : p.rst = q.rst)
    (start : p.start = q.start) (row : decodeHop p = decodeHop q) :
    portless (s.withPort p).fetch.run = portless (s.withPort q).fetch.run := by
  cases r : q.rst with
  | true =>
    rw [State.fetch_reset (u := s.withPort p) (rst.trans r), State.fetch_reset (u := s.withPort q) r]
    rfl
  | false =>
    rw [State.fetch_idle (u := s.withPort p) (rst.trans r) idle, State.fetch_idle (u := s.withPort q) r idle,
      State.fetchStart_run, State.fetchStart_run, State.runDecoded_decodePort, State.runDecoded_decodePort,
      State.withPort_port, State.withPort_port, start, row]
    split
    · rw [portless_runDecoded_decodeHop, portless_runDecoded_decodeHop]
    · rfl

/-- Settles O36: `Return` is refused outside the ends, and only at the ends does a step read its signal. -/
theorem returnElsewhereIsRefused : Obligations.ReturnElsewhereIsRefused := by
  refine ⟨fun s done failed => ?_, fun s p rest done failed => ?_⟩
  · rcases s.hostReturn_cases with ⟨ended | ended, -⟩ | ⟨-, -, refused⟩
    · exact absurd ended done
    · exact absurd ended failed
    · exact refused
  · change portless (State.fetch (State.withPort { s with script := rest } { p with ret := true })).run =
      portless (State.fetch (State.withPort { s with script := rest } { p with ret := false })).run
    rcases s.idle_or_busy_or_ended with idle | busy | ended | ended
    · exact portless_fetch_of_idle (s := { s with script := rest }) idle rfl rfl rfl
    · exact portless_fetch_of_busy (s := { s with script := rest }) busy rfl
    · exact absurd ended done
    · exact absurd ended failed

end Sys2Proof.Machine
end

section
/-! PROOFS. How long an operation lasts (R168, R169): the work left to it, which every step brings down. -/

namespace Sys2Proof.Machine

open Sys2Proof

/-! ## The work left

One measure for both bounds: the steps to the end of the operation, where a step without a transaction counts `silent`.
With 1 it counts steps (R168), with 0 transactions (R169). -/

/-- The most work from `AckReceived` on, with this many bytes of a `ReadData` missing (R156 to R162). -/
def payloadWork (silent : Nat) (hop : BitVec 2) (missing : Nat) : Nat :=
  if hop = hopSendCommand then silent
  else if hop = hopWritePage then 1 + (silent + 1)
  else missing + silent + (silent + 1)

/-- The most work from a `Start` on, its frame included. -/
def startWork (silent : Nat) (hop : BitVec 2) (length : Nat) : Nat :=
  1 + (silent + (1 + payloadWork silent hop length))

/-- The most work left to the operation in progress. -/
def State.workLeft (silent : Nat) (s : State) : Nat :=
  match s.st with
  | .idle => 0
  | .frameSent => silent + (1 + payloadWork silent s.hop s.missing)
  | .ackAwaited => 1 + payloadWork silent s.hop s.missing
  | .ackReceived => payloadWork silent s.hop s.missing
  | .payloadTransferred => silent + 1
  | .completionAwaited => 1
  | .done => 0
  | .failed => 0

theorem payloadWork_sendCommand (silent missing : Nat) : payloadWork silent hopSendCommand missing = silent := rfl

theorem payloadWork_writePage (silent missing : Nat) :
    payloadWork silent hopWritePage missing = 1 + (silent + 1) := rfl

theorem payloadWork_readData (silent missing : Nat) :
    payloadWork silent hopReadData missing = missing + silent + (silent + 1) := rfl

theorem payloadWork_pos (hop : BitVec 2) (missing : Nat) : 0 < payloadWork 1 hop missing := by
  unfold payloadWork
  split
  · exact Nat.one_pos
  · split <;> omega

theorem State.workLeft_raise (silent : Nat) (s : State) (e : Error) : (s.raise e).workLeft silent = 0 := rfl

theorem State.workLeft_frameSent {s : State} (h : s.st = .frameSent) (silent : Nat) :
    s.workLeft silent = silent + (1 + payloadWork silent s.hop s.missing) := by
  simp [State.workLeft, h]

theorem State.workLeft_ackAwaited {s : State} (h : s.st = .ackAwaited) (silent : Nat) :
    s.workLeft silent = 1 + payloadWork silent s.hop s.missing := by
  simp [State.workLeft, h]

theorem State.workLeft_ackReceived {s : State} (h : s.st = .ackReceived) (silent : Nat) :
    s.workLeft silent = payloadWork silent s.hop s.missing := by
  simp [State.workLeft, h]

theorem State.workLeft_payloadTransferred {s : State} (h : s.st = .payloadTransferred) (silent : Nat) :
    s.workLeft silent = silent + 1 := by
  simp [State.workLeft, h]

theorem State.workLeft_completionAwaited {s : State} (h : s.st = .completionAwaited) (silent : Nat) :
    s.workLeft silent = 1 := by
  simp [State.workLeft, h]

/-- No work is left where no operation is in progress. -/
theorem State.workLeft_of_not_busy {s : State} (h : s.busy = false) (silent : Nat) : s.workLeft silent = 0 := by
  rw [State.busy_eq] at h
  cases st : s.st with
  | idle | done | failed => simp [State.workLeft, st]
  | _ => simp [St.busy, st] at h

/-- An operation in progress has a step to take. -/
theorem State.workLeft_pos {s : State} (busy : s.busy = true) : 0 < s.workLeft 1 := by
  rcases s.busy_iff.1 busy with h | h | h | h | h
  · rw [State.workLeft_frameSent h]; omega
  · rw [State.workLeft_ackAwaited h]; omega
  · rw [State.workLeft_ackReceived h]; exact payloadWork_pos ..
  · rw [State.workLeft_payloadTransferred h]; omega
  · rw [State.workLeft_completionAwaited h]; omega

/-! ## A step does its work -/

/-- From one state to the next a step does silent work or makes one transaction, and brings the work left down by it. -/
abbrev State.Works (u t : State) : Prop :=
  (t.history = u.history ∧ ∀ silent, t.workLeft silent + silent ≤ u.workLeft silent) ∨
  ∃ x, t.history = u.history ++ [x] ∧ ∀ silent, t.workLeft silent + 1 ≤ u.workLeft silent

/-- The bytes of a payload read are no longer missing (R106, R158). -/
theorem State.storeReceived_missing_lt {s : State} {bytes : List Byte} (more : s.cnt < s.op0)
    (le : bytes.length ≤ s.missing) (ne : bytes ≠ []) : (s.storeReceived bytes).missing < s.missing := by
  have counted := State.storeReceived_cnt_toNat (Nat.le_of_lt more) le
  have some_byte := List.length_pos_iff.2 ne
  rw [State.missing, counted, State.storeReceived_op0]
  rw [State.missing] at le ⊢
  omega

/-- Every step of an operation in progress does some of its work. -/
theorem StepKind.works {u t : State} (k : StepKind u t) (r : u.port.rst = false) (busy : u.busy = true) :
    u.Works t := by
  obtain ⟨notIdle, -⟩ := State.st_ne_of_busy busy
  cases k with
  | reset reset => simp [r] at reset
  | wait _ h => rcases h with h | h | h <;> simp [State.busy_eq, h, St.busy] at busy
  | hostReturn _ h => rcases h with h | h <;> simp [State.busy_eq, h, St.busy] at busy
  | start _ h => exact absurd h notIdle
  | turnToRead _ h =>
    refine .inl ⟨rfl, fun silent => ?_⟩
    rw [State.workLeft_frameSent h, State.workLeft_ackAwaited rfl, State.enter_hop, State.missing_enter]
    omega
  | commandDone _ h send =>
    refine .inl ⟨rfl, fun silent => ?_⟩
    rw [State.workLeft_ackReceived h, send, payloadWork_sendCommand, State.workLeft_of_not_busy rfl]
    omega
  | payloadDone _ h read =>
    refine .inl ⟨rfl, fun silent => ?_⟩
    rw [State.workLeft_ackReceived h, read, payloadWork_readData, State.workLeft_payloadTransferred rfl]
    omega
  | turnToCompletion _ h =>
    refine .inl ⟨rfl, fun silent => ?_⟩
    rw [State.workLeft_payloadTransferred h, State.workLeft_completionAwaited rfl]
    omega
  | marker _ h a answered =>
    refine .inr ⟨.read 1 a, by simp, fun silent => ?_⟩
    have missing : (u.afterRead.record (.read 1 a)).missing = u.missing := by simp [State.missing]
    rcases State.markerRead_cases h answered with ⟨x, e⟩ | ⟨wait, marker, target, hw, w, -, e⟩
    · rw [e, State.workLeft_raise]
      rcases h with h | h
      · rw [State.workLeft_ackAwaited h]; omega
      · rw [State.workLeft_completionAwaited h]
    · rw [e]
      cases w with
      | ack =>
        rw [State.workLeft_ackAwaited hw, State.workLeft_ackReceived rfl, State.missing_enter, missing]
        simp [Nat.add_comm]
      | completion => rw [State.workLeft_completionAwaited hw, State.workLeft_of_not_busy rfl]
  | payloadWrite _ h page a =>
    refine .inr ⟨.write u.payloadBytes a, by simp, fun silent => ?_⟩
    rw [State.workLeft_ackReceived h, page, payloadWork_writePage]
    rcases (u.afterWrite.record (.write u.payloadBytes a)).afterWriteAll_ends a u.len .payloadTransferred with
      e | ⟨x, -, e⟩ <;> rw [e]
    · rw [State.workLeft_payloadTransferred rfl]; omega
    · rw [State.workLeft_raise]; omega
  | payloadRead _ h read more a answered =>
    refine .inr ⟨.read u.missing a, by simp, fun silent => ?_⟩
    have missingSome : 0 < u.missing := Nat.sub_pos_of_lt more
    have le := State.readAnswer_le answered
    rw [State.workLeft_ackReceived h, read, payloadWork_readData]
    obtain ⟨c, moved⟩ := u.afterRead_record_eq_withChannel (.read u.missing a)
    rw [moved]
    rcases (u.withChannel c).afterPayloadRead_cases a with ⟨-, e⟩ | ⟨-, -, e⟩ | ⟨-, ne, e⟩ <;> rw [e]
    · rw [State.workLeft_raise]; omega
    · rw [State.workLeft_raise]; omega
    · have stays : ((u.withChannel c).storeReceived a.bytes).st = .ackReceived := h
      have hop : ((u.withChannel c).storeReceived a.bytes).hop = hopReadData := read
      rw [State.workLeft_ackReceived stays, hop, payloadWork_readData]
      have brought := State.storeReceived_missing_lt (s := u.withChannel c) more le ne
      change _ < u.missing at brought
      omega

theorem State.sample_workLeft (s : State) (silent : Nat) : s.sample.workLeft silent = s.workLeft silent := by
  simp [State.workLeft, State.missing]

/-! ## Steps with nothing presented -/

theorem State.sample_port_of_script_nil {s : State} (quiet : s.script = []) : s.sample.port = HostPort.quiet := by
  rw [State.sample_port, quiet]
  rfl

theorem State.noReset_of_script_nil {s : State} (quiet : s.script = []) : s.noReset :=
  rst_of_quiet (State.sample_port_of_script_nil quiet)

theorem Effect.script {u t : State} (k : Effect u t) : t.script = u.script := by
  cases k <;> rfl

/-- A step takes one entry of what the host presents (R37). -/
theorem step_script {s t : State} (h : step s = .next t) : t.script = s.script.tail :=
  (step_effect h).script.trans s.sample_script

theorem step_script_nil {s t : State} (quiet : s.script = []) (h : step s = .next t) : t.script = [] := by
  rw [step_script h, quiet]
  rfl

/-- With no operation in progress and nothing presented the block waits (R163 to R165). -/
theorem step_waits {s : State} (quiet : s.script = []) (rests : s.busy = false) : step s = .next s.sample := by
  have port := State.sample_port_of_script_nil quiet
  obtain ⟨ends, idles⟩ := doneAndFailedAreTerminal
  rcases s.idle_or_busy_or_ended with idle | busy | ended
  · exact idles s (State.noReset_of_script_nil quiet) idle (by rw [port]; rfl)
  · simp [rests] at busy
  · exact ends s (State.noReset_of_script_nil quiet) ended (by rw [port]; rfl)

theorem step_works {s t : State} (quiet : s.script = []) (busy : s.busy = true) (h : step s = .next t) :
    s.Works t := by
  have works := (step_kind h).works (State.noReset_of_script_nil quiet) (by simpa [State.busy_eq] using busy)
  simpa only [State.Works, State.sample_history, State.sample_workLeft] using works

/-- A step of an operation in progress does not go back to `Idle` (R166). -/
theorem step_active {s t : State} (quiet : s.script = []) (busy : s.busy = true) (h : step s = .next t) :
    t.st ≠ .idle := by
  intro back
  have follows := (step_kind h).arrow (State.noReset_of_script_nil quiet)
  rw [back, s.sample_st] at follows
  simp [State.busy_eq, not_busy_of_arrow_idle follows] at busy

/-! ## Runs with nothing presented -/

/-- However long the run, it makes no more transactions than the work left (R169). -/
theorem steps_history_bounded (n : Nat) {s t : State} (quiet : s.script = []) (h : steps n s = .next t) :
    ∃ l, t.history = s.history ++ l ∧ l.length ≤ s.workLeft 0 := by
  induction n generalizing s with
  | zero =>
    cases h
    exact ⟨[], by simp, Nat.zero_le _⟩
  | succ n ih =>
    rw [steps_succ] at h
    cases stepped : step s with
    | fault | refused => rw [stepped] at h; cases h
    | next u =>
      rw [stepped] at h
      obtain ⟨l, history, le⟩ := ih (step_script_nil quiet stepped) h
      cases busy : s.busy with
      | false =>
        cases (step_waits quiet busy).symm.trans stepped
        rw [State.sample_history] at history
        rw [State.sample_workLeft] at le
        exact ⟨l, history, le⟩
      | true =>
        rcases step_works quiet busy stepped with ⟨same, left⟩ | ⟨x, added, left⟩
        · exact ⟨l, same ▸ history, le.trans (left 0)⟩
        · exact ⟨x :: l, by simp [history, added], (Nat.succ_le_succ le).trans (left 0)⟩

/-- The operation has ended, with an error on record exactly if it has failed (R41). -/
abbrev State.HasEnded (s : State) : Prop := (s.st = .done ∧ s.err = .noError) ∨ (s.st = .failed ∧ s.err ≠ .noError)

theorem State.hasEnded_of_not_busy {s : State} (inv : s.Inv) (active : s.st ≠ .idle) (rests : s.busy = false) :
    s.HasEnded := by
  obtain ⟨agrees, -⟩ := inv
  have record := agrees active
  rcases s.idle_or_busy_or_ended with idle | busy | done | failed
  · exact absurd idle active
  · simp [rests] at busy
  · exact .inl ⟨done, by simpa [done] using record⟩
  · exact .inr ⟨failed, record.1 failed⟩

/-- A run as long as the work left ends the operation, or stops for want of an answer (R168, R229). -/
theorem steps_hasEnded (n : Nat) {s : State} (quiet : s.script = []) (inv : s.Inv) (active : s.st ≠ .idle)
    (enough : s.workLeft 1 ≤ n) :
    steps n s = .refused .answerOutsideDomain ∨ holdsNext State.HasEnded (steps n s) := by
  induction n generalizing s with
  | zero =>
    cases busy : s.busy with
    | false => exact .inr (State.hasEnded_of_not_busy inv active busy)
    | true => exact absurd (State.workLeft_pos busy) (by omega)
  | succ n ih =>
    cases busy : s.busy with
    | false =>
      have waits := step_waits quiet busy
      have noneLeft : s.sample.workLeft 1 = 0 := (s.sample_workLeft 1).trans (State.workLeft_of_not_busy busy 1)
      rw [steps_succ_of_step waits]
      exact ih (step_script_nil quiet waits) inv.sample (by simpa using active) (by omega)
    | true =>
      rcases step_busy inv busy with ⟨t, stepped⟩ | stopped
      · have left : t.workLeft 1 + 1 ≤ s.workLeft 1 := by
          rcases step_works quiet busy stepped with ⟨-, left⟩ | ⟨x, -, left⟩ <;> exact left 1
        rw [steps_succ_of_step stepped]
        exact ih (step_script_nil quiet stepped) (controlInvariantIsKept s t inv stepped)
          (step_active quiet busy stepped) (by omega)
      · rw [steps_succ, stopped]
        exact .inl rfl

/-! ## The `Start` -/

/-- The one `Start` that the host requests is on the port in the coming step. -/
theorem State.sample_port_of_oneStart {s : State} {q : HostPort} (one : s.oneStart q) : s.sample.port = q := by
  rw [State.sample_port, one.1]
  rfl

/-- After the one `Start` nothing more is presented. -/
theorem step_script_of_oneStart {s t : State} {q : HostPort} (one : s.oneStart q) (h : step s = .next t) :
    t.script = [] := by
  rw [step_script h, one.1]
  rfl

/-- The one `Start` that the host requests runs its instruction (R151). -/
theorem step_oneStart {i : Instr} {q : HostPort} {s : State} (idle : s.st = .idle) (one : s.oneStart q)
    (d : decodePort q = .ok i) : step s = exec i s.sample := by
  have port := State.sample_port_of_oneStart one
  obtain ⟨-, rst, start⟩ := one
  have fetched : s.sample.fetchStart = .instr i s.sample := State.fetchStart_instr (port ▸ start) (port ▸ d)
  have noReset : s.noReset := (congrArg HostPort.rst port).trans rst
  rw [step_idle noReset idle, fetched]
  rfl

/-- The bounds of R168 and R169 are the work of the operation, its frame included. -/
theorem startFields_bounds {i : Instr} {s : State} {f : StartFields} (l : i.startFields s = some f) :
    i.stepBound = startWork 1 f.hop f.op0.toNat ∧ i.transactionBound = startWork 0 f.hop f.op0.toNat := by
  have reads (n : Nat) : 6 + n = startWork 1 hopReadData n ∧ 3 + n = startWork 0 hopReadData n := by
    simp only [startWork, payloadWork_readData]
    omega
  cases i with
  | success | write | sendCommand => cases l; exact ⟨rfl, rfl⟩
  | read a n | readDataOp a n => cases l; exact reads n.toNat
  | ack | successHs => cases l
  | writePage | writePageOp =>
    simp only [Instr.startFields] at l
    split at l
    · cases l; exact ⟨rfl, rfl⟩
    · cases l

/-- A `Start` in `Idle` leaves it, with its frame as the first transaction of its work (R151). -/
theorem exec_start_works {i : Instr} {u t : State} {f : StartFields} (l : i.startFields u = some f)
    (idle : u.st = .idle) (h : exec i u = .next t) :
    t.st ≠ .idle ∧ (∃ x, t.history = u.history ++ [x]) ∧
      ∀ silent, t.workLeft silent + 1 ≤ startWork silent f.hop f.op0.toNat := by
  rw [exec_start_idle l idle] at h
  obtain ⟨a, -, rfl⟩ := onAnswer_next h
  have history : ((f.latched u).afterWrite.record (.write f.frame a)).history = u.history ++ [.write f.frame a] := by
    simp [StartFields.latched]
  obtain ⟨c, moved⟩ := (f.latched u).afterWrite_record_eq_withChannel (.write f.frame a)
  rcases ((f.latched u).afterWrite.record (.write f.frame a)).afterWriteAll_ends a 4 .frameSent with e | ⟨x, -, e⟩ <;>
    rw [e]
  · refine ⟨nofun, ⟨_, history⟩, fun silent => ?_⟩
    rw [State.workLeft_frameSent rfl, moved, startWork]
    exact (Nat.add_comm ..).le
  · refine ⟨nofun, ⟨_, history⟩, fun silent => ?_⟩
    rw [State.workLeft_raise, startWork]
    omega

/-! ## The two bounds -/

/-- Settles O56: the frame, and then no more transactions than the work it leaves. -/
theorem transactionsAreBounded : Obligations.TransactionsAreBounded := by
  intro i q s t n idle one d h
  suffices bounded : ∃ l, t.history = s.history ++ l ∧ l.length ≤ i.transactionBound by
    obtain ⟨l, history, le⟩ := bounded
    exact ⟨l, history, le, Nat.mul_le_mul_right _ le⟩
  cases n with
  | zero =>
    cases h
    exact ⟨[], by simp, Nat.zero_le _⟩
  | succ n =>
    rw [steps_succ] at h
    cases stepped : step s with
    | fault | refused => rw [stepped] at h; cases h
    | next u =>
      rw [stepped] at h
      obtain ⟨l, history, le⟩ := steps_history_bounded n (step_script_of_oneStart one stepped) h
      rw [step_oneStart idle one d] at stepped
      rcases decodePort_startFields (State.sample_port_of_oneStart one ▸ d) with ⟨f, fields⟩ | refused
      · obtain ⟨-, ⟨x, added⟩, left⟩ := exec_start_works fields (s.sample_st.trans idle) stepped
        obtain ⟨-, bound⟩ := startFields_bounds fields
        refine ⟨x :: l, by simp [history, added], ?_⟩
        rw [bound]
        exact (Nat.succ_le_succ le).trans (left 0)
      · rw [refused] at stepped
        cases stepped

/-- Presented signals latch something, when the payload has the announced length (R37). -/
theorem startFields_of_fits {u : State} {i : Instr} (d : decodePort u.port = .ok i)
    (fits : u.port.op = hopWritePage → u.port.payload.length = u.port.op0.toNat) : ∃ f, i.startFields u = some f := by
  rcases decodePort_cases d with selected | ⟨-, -, rfl⟩ | ⟨-, -, rfl⟩ | ⟨page, rfl⟩ | ⟨-, rfl⟩
  · rcases decodeHop_cases selected with ⟨-, rfl⟩ | ⟨-, -, rfl⟩ | ⟨-, rfl⟩
    · exact ⟨_, rfl⟩
    · exact ⟨_, if_pos (payload_le_of_decodePort d)⟩
    · exact ⟨_, rfl⟩
  · exact ⟨_, rfl⟩
  · exact ⟨_, rfl⟩
  · exact ⟨_, if_pos (fits page)⟩
  · exact ⟨_, rfl⟩

/-- Settles O55: after the `Start` the rest of the bound is as long as the work left, and the premise of R229
excludes the stop. -/
theorem everyOperationEnds : Obligations.EveryOperationEnds := by
  intro i q s idle one d fits
  suffices ends : steps i.stepBound s = .refused .answerOutsideDomain ∨
      holdsNext State.HasEnded (steps i.stepBound s) from
    ⟨fun answers => ends.resolve_left fun stopped => steps_refused_not_answered stopped answers, ends⟩
  have port := State.sample_port_of_oneStart one
  obtain ⟨f, fields⟩ := startFields_of_fits (u := s.sample) (port ▸ d) (port ▸ fits)
  obtain ⟨bound, -⟩ := startFields_bounds fields
  rw [bound, startWork, Nat.add_comm 1, steps_succ]
  cases stepped : step s with
  | fault r => exact absurd stepped (step_ne_fault (State.inv_of_idle idle) r)
  | refused r =>
    rw [step_oneStart idle one d, exec_start_idle fields (s.sample_st.trans idle)] at stepped
    exact .inl (congrArg _ (onAnswer_refused stepped).2)
  | next t =>
    have quiet := step_script_of_oneStart one stepped
    have inv := controlInvariantIsKept s t (State.inv_of_idle idle) stepped
    rw [step_oneStart idle one d] at stepped
    obtain ⟨active, -, left⟩ := exec_start_works fields (s.sample_st.trans idle) stepped
    have enough := left 1
    rw [startWork] at enough
    exact steps_hasEnded _ quiet inv active (by omega)

end Sys2Proof.Machine
end

section
/-! PROOFS. The error entry `raise`: what each of the four kinds writes (R190). -/

namespace Sys2Proof.Machine

open Sys2Proof

/-- An error of the channel carries no bytes, so both bytes of the error record stay with the other fields. -/
theorem State.raise_of_ofChannel (s : State) {e : Error} (k : e.ofChannel) :
    s.raise e = { s with st := .failed, err := e.kind } := by
  cases e with
  | transport | readTimeout | shortWrite => rfl
  | handshake => exact absurd rfl k

/-- A `HandshakeError` also puts its two bytes on record. -/
theorem State.raise_handshake (s : State) (expected actual : Byte) :
    s.raise (.handshake expected actual) =
      { s with st := .failed, err := .handshake, errExp := expected, errAct := actual } := rfl

/-- Settles O34: the three errors of the channel write `err` and `st`, and the comparison's error its two bytes too. -/
theorem raiseWritesOnlyTheRecord : Obligations.RaiseWritesOnlyTheRecord := by
  intro s expected actual
  exact ⟨s.raise_of_ofChannel (e := .transport) nofun, s.raise_of_ofChannel (e := .readTimeout) nofun,
    s.raise_of_ofChannel (e := .shortWrite) nofun, s.raise_handshake expected actual⟩

end Sys2Proof.Machine
end

section
/-! PROOFS. The reset event (R210, R211): what it writes, what it keeps, and that it is the whole of its step. -/

namespace Sys2Proof.Machine

open Sys2Proof

/-! ## What the reset event writes and keeps -/

@[simp] theorem State.resetEvent_st (s : State) : s.resetEvent.st = .idle := rfl
@[simp] theorem State.resetEvent_err (s : State) : s.resetEvent.err = .noError := rfl
@[simp] theorem State.resetEvent_history (s : State) : s.resetEvent.history = s.history := rfl
@[simp] theorem State.resetEvent_writeAnswers (s : State) : s.resetEvent.writeAnswers = s.writeAnswers := rfl
@[simp] theorem State.resetEvent_readAnswers (s : State) : s.resetEvent.readAnswers = s.readAnswers := rfl

/-! ## The step of a reset -/

/-- A sampled reset comes before everything else (R211): the step is the reset event, in every `st`. -/
theorem step_reset {s : State} (r : s.sample.port.rst = true) : step s = .next s.sample.resetEvent := by
  rw [step, State.fetch_reset r]
  rfl

/-- In `Idle` the host sees none of the three outputs, no result and no error record (R34, R38). -/
theorem State.shows_nothing_of_idle {s : State} (idle : s.st = .idle) :
    s.busy = false ∧ s.doneOut = false ∧ s.failedOut = false ∧ s.rdata = none ∧ s.errorRecord = none := by
  have notDone : s.st ≠ .done := by simp [idle]
  have notFailed : s.st ≠ .failed := by simp [idle]
  exact ⟨by rw [s.busy_eq, idle]; rfl, decide_eq_false notDone, decide_eq_false notFailed,
    State.rdata_of_not_readDone (.inl notDone), State.errorRecord_of_not_failed notFailed⟩

/-- Settles O2: the step is the reset event, which enters `Idle`, clears `err` and leaves the channel as sampled. -/
theorem resetEventAbandonsTheOperation : Obligations.ResetEventAbandonsTheOperation := by
  intro s r
  obtain ⟨busy, done, failed, rdata, record⟩ := State.shows_nothing_of_idle s.sample.resetEvent_st
  exact ⟨s.sample.resetEvent, step_reset r, s.sample.resetEvent_st, s.sample.resetEvent_err, busy, done, failed, rdata,
    record, by simp, by simp, by simp⟩

end Sys2Proof.Machine
end
